-- ==== Sys2Proof/Word.lean ====
section
/-!
DEFINITION. The two widths of the machine (00_scope.md R6, R8): bytes of 8 bits and words of 16 bits.
-/

namespace Sys2Proof

/-- An 8-bit value: a general register, a timer, a memory cell (00_scope.md R6). -/
abbrev Byte := BitVec 8

/-- A 16-bit value: `I`, `PC`, a stack slot, an instruction word, a key vector (00_scope.md R6). -/
abbrev Word := BitVec 16

end Sys2Proof
end

