-- ==== Sys2Proof/Config.lean ====
section
/-!
DEFINITION. What the source fixes for the machine (00_scope.md R6) and what it leaves open: the open values are
opaque constants, so no proof can learn a value of one.
-/

namespace Sys2Proof

/-- `MEM_SIZE`: addresses 0x000 to 0xFFF exist (00_scope.md R6, 20_memory.md R60). -/
def Config.memSize : Nat := 0x1000

/-- `LOAD_ADDR`: where the image is placed and where `PC` starts (00_scope.md R6). -/
def Config.loadAddr : Nat := 0x200

/-- The longest image the loader accepts, 3584 bytes (20_memory.md R64, 70_reset_and_hazards.md R293). -/
def Config.maxImage : Nat := Config.memSize - Config.loadAddr

/-- `CYCLES_PER_TICK`, OPEN: any natural number, 0 allowed, fixed for a run (40_cycle.md R125; log entry 2). -/
opaque Config.cyclesPerTick : Nat

/-- The free random byte of the k-th executed `RND` (42_load_alu.md R171; log entry 3). -/
opaque Config.randomByte : Nat → Byte

/-- The free vector `held` the host supplies at the k-th Tick (60_exceptions.md R258; log entry 4). -/
opaque Config.heldVector : Nat → Word

/-- The free vector `released` the host supplies at the k-th Tick (60_exceptions.md R258; log entry 4). -/
opaque Config.releasedVector : Nat → Word

end Sys2Proof
end

