-- ==== Sys2Proof/Syntax.lean ====
section
/-!
DEFINITION. The 34 instructions, one constructor per row of spec/opcode_table.json (30_encoding.md R96, R105).
The operand types have the widths of the fields of 30_encoding.md R91, so every term is an instruction.
-/

namespace Sys2Proof

/-- A general register V0 to VF, named by a 4-bit field x or y (10_state.md R21). -/
abbrev Reg := Fin 16

/-- An address literal: the 12-bit field nnn (30_encoding.md R91). -/
abbrev Addr12 := BitVec 12

/-- The instructions in the order of 30_encoding.md R96. A word that is none of them is UNKNOWN (R100) and has no
constructor: it is handled by the cycle itself (40_cycle.md R124). -/
inductive Instr where
  /-- `CLS`, 0-E0. -/
  | cls
  /-- `RET`, 0-EE. -/
  | ret
  /-- `JP addr`, 1nnn. -/
  | jp (nnn : Addr12)
  /-- `CALL addr`, 2nnn. -/
  | call (nnn : Addr12)
  /-- `SE Vx,byte`, 3xkk. -/
  | seByte (x : Reg) (kk : Byte)
  /-- `SNE Vx,byte`, 4xkk. -/
  | sneByte (x : Reg) (kk : Byte)
  /-- `SE Vx,Vy`, 5xy0. -/
  | seReg (x y : Reg)
  /-- `LD Vx,byte`, 6xkk. -/
  | ldByte (x : Reg) (kk : Byte)
  /-- `ADD Vx,byte`, 7xkk. -/
  | addByte (x : Reg) (kk : Byte)
  /-- `LD Vx,Vy`, 8xy0. -/
  | ldReg (x y : Reg)
  /-- `OR Vx,Vy`, 8xy1. -/
  | orReg (x y : Reg)
  /-- `AND Vx,Vy`, 8xy2. -/
  | andReg (x y : Reg)
  /-- `XOR Vx,Vy`, 8xy3. -/
  | xorReg (x y : Reg)
  /-- `ADD Vx,Vy`, 8xy4. -/
  | addReg (x y : Reg)
  /-- `SUB Vx,Vy`, 8xy5. -/
  | subReg (x y : Reg)
  /-- `SHR Vx`, 8xy6: the y field stands in the word and is not used (30_encoding.md R92). -/
  | shr (x y : Reg)
  /-- `SUBN Vx,Vy`, 8xy7. -/
  | subnReg (x y : Reg)
  /-- `SHL Vx`, 8xyE: the y field stands in the word and is not used (30_encoding.md R92). -/
  | shl (x y : Reg)
  /-- `SNE Vx,Vy`, 9xy0. -/
  | sneReg (x y : Reg)
  /-- `LD I,addr`, Annn. -/
  | ldI (nnn : Addr12)
  /-- `JP V0,addr`, Bnnn. -/
  | jpV0 (nnn : Addr12)
  /-- `RND Vx,byte`, Cxkk. -/
  | rnd (x : Reg) (kk : Byte)
  /-- `DRW Vx,Vy,n`, Dxyn: n is the count of sprite rows (30_encoding.md R93). -/
  | drw (x y : Reg) (n : Fin 16)
  /-- `SKP Vx`, Ex9E. -/
  | skp (x : Reg)
  /-- `SKNP Vx`, ExA1. -/
  | sknp (x : Reg)
  /-- `LD Vx,DT`, Fx07. -/
  | ldVxDT (x : Reg)
  /-- `LD Vx,K`, Fx0A. -/
  | ldVxK (x : Reg)
  /-- `LD DT,Vx`, Fx15. -/
  | ldDTVx (x : Reg)
  /-- `LD ST,Vx`, Fx18. -/
  | ldSTVx (x : Reg)
  /-- `ADD I,Vx`, Fx1E. -/
  | addIVx (x : Reg)
  /-- `LD I,F(Vx)`, Fx29. -/
  | ldIF (x : Reg)
  /-- `LD B,Vx`, Fx33. -/
  | ldB (x : Reg)
  /-- `LD [I],Vx`, Fx55. -/
  | storeRegs (x : Reg)
  /-- `LD Vx,[I]`, Fx65. -/
  | loadRegs (x : Reg)
  deriving DecidableEq, Repr

end Sys2Proof
end

