-- ==== Sys2Proof/WellFormed.lean ====
section
/-!
DEFINITION. Well-formedness. The field widths are in the types of Instr and the spec reserves no operand value
(30_encoding.md R93, R102), so every instruction is well formed. The one input the spec checks is the image given to
Reset (70_reset_and_hazards.md R293).
-/

namespace Sys2Proof

/-- Every instruction is well formed: "every word is either one of the 34 instructions or UNKNOWN" and all values of a
field are legal (30_encoding.md R102). -/
def Instr.wellFormed (_ : Instr) : Bool := true

/-- An image the loader accepts: 0 to 3584 bytes (20_memory.md R64, 70_reset_and_hazards.md R293). -/
def imageWellFormed (program : List Byte) : Bool := decide (program.length ≤ Config.maxImage)

end Sys2Proof
end

