-- ==== Sys2Proof/Decode.lean ====
section
/-!
DEFINITION. Decoding (30_encoding.md R90 to R102) and encoding, and the opcode map R96 as a table of its own.
-/

namespace Sys2Proof

/-! ### The fields of a word (30_encoding.md R91) -/

/-- `op` = w[15:12]. -/
def fieldOp (w : Word) : BitVec 4 := w.extractLsb' 12 4
/-- `x` = w[11:8]. -/
def fieldX (w : Word) : Reg := (w.extractLsb' 8 4).toFin
/-- `y` = w[7:4]. -/
def fieldY (w : Word) : Reg := (w.extractLsb' 4 4).toFin
/-- `n` = w[3:0]. -/
def fieldN (w : Word) : BitVec 4 := w.extractLsb' 0 4
/-- `kk` = w[7:0]. -/
def fieldKK (w : Word) : Byte := w.extractLsb' 0 8
/-- `nnn` = w[11:0], "12-bit address fields are masked to 0x0FFF" (30_encoding.md R93). -/
def fieldNNN (w : Word) : Addr12 := w.extractLsb' 0 12

/-! ### Decoding -/

/-- Group 0x0: the low byte selects, w[11:8] is not examined (30_encoding.md R94, R97). -/
def decodeGroup0 (w : Word) : Option Instr :=
  match fieldKK w with
  | 0xE0 => some .cls
  | 0xEE => some .ret
  | _ => none

/-- Group 0x8: the low nibble selects one of nine operations (30_encoding.md R94, R98). -/
def decodeGroup8 (w : Word) : Option Instr :=
  match fieldN w with
  | 0x0 => some (.ldReg (fieldX w) (fieldY w))
  | 0x1 => some (.orReg (fieldX w) (fieldY w))
  | 0x2 => some (.andReg (fieldX w) (fieldY w))
  | 0x3 => some (.xorReg (fieldX w) (fieldY w))
  | 0x4 => some (.addReg (fieldX w) (fieldY w))
  | 0x5 => some (.subReg (fieldX w) (fieldY w))
  | 0x6 => some (.shr (fieldX w) (fieldY w))
  | 0x7 => some (.subnReg (fieldX w) (fieldY w))
  | 0xE => some (.shl (fieldX w) (fieldY w))
  | _ => none

/-- Group 0xE: the low byte selects `SKP` or `SKNP` (30_encoding.md R94, R99). -/
def decodeGroupE (w : Word) : Option Instr :=
  match fieldKK w with
  | 0x9E => some (.skp (fieldX w))
  | 0xA1 => some (.sknp (fieldX w))
  | _ => none

/-- Group 0xF: the low byte selects one of nine operations (30_encoding.md R94, R101). -/
def decodeGroupF (w : Word) : Option Instr :=
  match fieldKK w with
  | 0x07 => some (.ldVxDT (fieldX w))
  | 0x0A => some (.ldVxK (fieldX w))
  | 0x15 => some (.ldDTVx (fieldX w))
  | 0x18 => some (.ldSTVx (fieldX w))
  | 0x1E => some (.addIVx (fieldX w))
  | 0x29 => some (.ldIF (fieldX w))
  | 0x33 => some (.ldB (fieldX w))
  | 0x55 => some (.storeRegs (fieldX w))
  | 0x65 => some (.loadRegs (fieldX w))
  | _ => none

/-- The decode procedure of 30_encoding.md R94: mask the top nibble, then a sub-field. `none` is UNKNOWN (R100). -/
def decodeWord (w : Word) : Option Instr :=
  match fieldOp w with
  | 0x0 => decodeGroup0 w
  | 0x1 => some (.jp (fieldNNN w))
  | 0x2 => some (.call (fieldNNN w))
  | 0x3 => some (.seByte (fieldX w) (fieldKK w))
  | 0x4 => some (.sneByte (fieldX w) (fieldKK w))
  | 0x5 => if fieldN w = 0 then some (.seReg (fieldX w) (fieldY w)) else none
  | 0x6 => some (.ldByte (fieldX w) (fieldKK w))
  | 0x7 => some (.addByte (fieldX w) (fieldKK w))
  | 0x8 => decodeGroup8 w
  | 0x9 => if fieldN w = 0 then some (.sneReg (fieldX w) (fieldY w)) else none
  | 0xA => some (.ldI (fieldNNN w))
  | 0xB => some (.jpV0 (fieldNNN w))
  | 0xC => some (.rnd (fieldX w) (fieldKK w))
  | 0xD => some (.drw (fieldX w) (fieldY w) (fieldN w).toFin)
  | 0xE => decodeGroupE w
  | _ => decodeGroupF w  -- 0xF, the one nibble left

/-- The word of two bytes in memory order: the byte at the lower address is the high byte (20_memory.md R68). -/
def wordOfBytes (hi lo : Byte) : Word := hi ++ lo

/-- The two bytes of a word in memory order (20_memory.md R68). -/
def bytesOfWord (w : Word) : List Byte := [w.extractLsb' 8 8, w.extractLsb' 0 8]

/-- Why bytes are no instruction. -/
inductive Reject where
  /-- The word matches no row of the opcode map (30_encoding.md R100). -/
  | unknownWord (w : Word)
  /-- Fewer than the two bytes of an instruction (30_encoding.md R90). -/
  | tooShort
  deriving DecidableEq, Repr

/-- The instruction at the head of a list of bytes, with the bytes after it. -/
def decode : List Byte → Except Reject (Instr × List Byte)
  | hi :: lo :: rest =>
    match decodeWord (wordOfBytes hi lo) with
    | some i => .ok (i, rest)
    | none => .error (.unknownWord (wordOfBytes hi lo))
  | _ => .error .tooShort

/-- The bytes, in memory order, of the word whose bits are `w` numbered as spec/opcode_table.json numbers them, the bits
from `nbits` on being 0. -/
def tableBytes (nbits w : Nat) : List Byte := bytesOfWord (BitVec.ofNat 16 (w % 2 ^ nbits))

/-- What the decoder reads from those bytes. -/
def decodeTableWord (nbits w : Nat) : Option Instr :=
  match decode (tableBytes nbits w) with
  | .ok (i, _) => some i
  | .error _ => none

/-! ### Encoding (the formats of 30_encoding.md R92) -/

/-- A register number as its 4-bit field. -/
def regField (r : Fin 16) : BitVec 4 := BitVec.ofFin r

/-- Format `NNN`. -/
def encodeNNN (op : BitVec 4) (nnn : Addr12) : Word := op ++ nnn
/-- Format `XKK`, and format `X` with the sub-opcode as the low byte. -/
def encodeXKK (op : BitVec 4) (x : Reg) (kk : Byte) : Word := (op ++ regField x) ++ kk
/-- Format `XY` with the sub-opcode as the low nibble, and format `XYN`. -/
def encodeXYN (op : BitVec 4) (x y : Reg) (n : BitVec 4) : Word := (op ++ regField x) ++ (regField y ++ n)

/-- The word of an instruction, from the patterns of 30_encoding.md R96. `CLS` and `RET` have the canonical second
nibble 0 (R97). -/
def encode : Instr → Word
  | .cls => 0x00E0
  | .ret => 0x00EE
  | .jp nnn => encodeNNN 0x1 nnn
  | .call nnn => encodeNNN 0x2 nnn
  | .seByte x kk => encodeXKK 0x3 x kk
  | .sneByte x kk => encodeXKK 0x4 x kk
  | .seReg x y => encodeXYN 0x5 x y 0x0
  | .ldByte x kk => encodeXKK 0x6 x kk
  | .addByte x kk => encodeXKK 0x7 x kk
  | .ldReg x y => encodeXYN 0x8 x y 0x0
  | .orReg x y => encodeXYN 0x8 x y 0x1
  | .andReg x y => encodeXYN 0x8 x y 0x2
  | .xorReg x y => encodeXYN 0x8 x y 0x3
  | .addReg x y => encodeXYN 0x8 x y 0x4
  | .subReg x y => encodeXYN 0x8 x y 0x5
  | .shr x y => encodeXYN 0x8 x y 0x6
  | .subnReg x y => encodeXYN 0x8 x y 0x7
  | .shl x y => encodeXYN 0x8 x y 0xE
  | .sneReg x y => encodeXYN 0x9 x y 0x0
  | .ldI nnn => encodeNNN 0xA nnn
  | .jpV0 nnn => encodeNNN 0xB nnn
  | .rnd x kk => encodeXKK 0xC x kk
  | .drw x y n => encodeXYN 0xD x y (regField n)
  | .skp x => encodeXKK 0xE x 0x9E
  | .sknp x => encodeXKK 0xE x 0xA1
  | .ldVxDT x => encodeXKK 0xF x 0x07
  | .ldVxK x => encodeXKK 0xF x 0x0A
  | .ldDTVx x => encodeXKK 0xF x 0x15
  | .ldSTVx x => encodeXKK 0xF x 0x18
  | .addIVx x => encodeXKK 0xF x 0x1E
  | .ldIF x => encodeXKK 0xF x 0x29
  | .ldB x => encodeXKK 0xF x 0x33
  | .storeRegs x => encodeXKK 0xF x 0x55
  | .loadRegs x => encodeXKK 0xF x 0x65

/-! ### The opcode map R96 as a table, beside the procedure R94 -/

/-- One row of 30_encoding.md R96: a word is the row's when `w &&& mask = bits`. -/
structure OpcodeRow where
  mask : Word
  bits : Word
  deriving DecidableEq, Repr

/-- The word `w` is an instruction of the row. -/
def OpcodeRow.selects (r : OpcodeRow) (w : Word) : Bool := w &&& r.mask == r.bits

/-- The row of an instruction: its `mask` and `match` columns in 30_encoding.md R96. -/
def Instr.row : Instr → OpcodeRow
  | .cls => ⟨0xF0FF, 0x00E0⟩
  | .ret => ⟨0xF0FF, 0x00EE⟩
  | .jp _ => ⟨0xF000, 0x1000⟩
  | .call _ => ⟨0xF000, 0x2000⟩
  | .seByte _ _ => ⟨0xF000, 0x3000⟩
  | .sneByte _ _ => ⟨0xF000, 0x4000⟩
  | .seReg _ _ => ⟨0xF00F, 0x5000⟩
  | .ldByte _ _ => ⟨0xF000, 0x6000⟩
  | .addByte _ _ => ⟨0xF000, 0x7000⟩
  | .ldReg _ _ => ⟨0xF00F, 0x8000⟩
  | .orReg _ _ => ⟨0xF00F, 0x8001⟩
  | .andReg _ _ => ⟨0xF00F, 0x8002⟩
  | .xorReg _ _ => ⟨0xF00F, 0x8003⟩
  | .addReg _ _ => ⟨0xF00F, 0x8004⟩
  | .subReg _ _ => ⟨0xF00F, 0x8005⟩
  | .shr _ _ => ⟨0xF00F, 0x8006⟩
  | .subnReg _ _ => ⟨0xF00F, 0x8007⟩
  | .shl _ _ => ⟨0xF00F, 0x800E⟩
  | .sneReg _ _ => ⟨0xF00F, 0x9000⟩
  | .ldI _ => ⟨0xF000, 0xA000⟩
  | .jpV0 _ => ⟨0xF000, 0xB000⟩
  | .rnd _ _ => ⟨0xF000, 0xC000⟩
  | .drw _ _ _ => ⟨0xF000, 0xD000⟩
  | .skp _ => ⟨0xF0FF, 0xE09E⟩
  | .sknp _ => ⟨0xF0FF, 0xE0A1⟩
  | .ldVxDT _ => ⟨0xF0FF, 0xF007⟩
  | .ldVxK _ => ⟨0xF0FF, 0xF00A⟩
  | .ldDTVx _ => ⟨0xF0FF, 0xF015⟩
  | .ldSTVx _ => ⟨0xF0FF, 0xF018⟩
  | .addIVx _ => ⟨0xF0FF, 0xF01E⟩
  | .ldIF _ => ⟨0xF0FF, 0xF029⟩
  | .ldB _ => ⟨0xF0FF, 0xF033⟩
  | .storeRegs _ => ⟨0xF0FF, 0xF055⟩
  | .loadRegs _ => ⟨0xF0FF, 0xF065⟩

/-- The instruction each row reads from a word, in the order of 30_encoding.md R96. -/
def opcodeMap : List (Word → Instr) :=
  [fun _ => .cls, fun _ => .ret, fun w => .jp (fieldNNN w), fun w => .call (fieldNNN w),
    fun w => .seByte (fieldX w) (fieldKK w), fun w => .sneByte (fieldX w) (fieldKK w),
    fun w => .seReg (fieldX w) (fieldY w), fun w => .ldByte (fieldX w) (fieldKK w),
    fun w => .addByte (fieldX w) (fieldKK w)] ++
  [fun w => .ldReg (fieldX w) (fieldY w), fun w => .orReg (fieldX w) (fieldY w),
    fun w => .andReg (fieldX w) (fieldY w), fun w => .xorReg (fieldX w) (fieldY w),
    fun w => .addReg (fieldX w) (fieldY w), fun w => .subReg (fieldX w) (fieldY w),
    fun w => .shr (fieldX w) (fieldY w), fun w => .subnReg (fieldX w) (fieldY w),
    fun w => .shl (fieldX w) (fieldY w)] ++
  [fun w => .sneReg (fieldX w) (fieldY w), fun w => .ldI (fieldNNN w), fun w => .jpV0 (fieldNNN w),
    fun w => .rnd (fieldX w) (fieldKK w), fun w => .drw (fieldX w) (fieldY w) (fieldN w).toFin,
    fun w => .skp (fieldX w), fun w => .sknp (fieldX w)] ++
  [fun w => .ldVxDT (fieldX w), fun w => .ldVxK (fieldX w), fun w => .ldDTVx (fieldX w),
    fun w => .ldSTVx (fieldX w), fun w => .addIVx (fieldX w), fun w => .ldIF (fieldX w),
    fun w => .ldB (fieldX w), fun w => .storeRegs (fieldX w), fun w => .loadRegs (fieldX w)]

/-- Decoding by the opcode map alone: the first row whose mask and match select the word (30_encoding.md R96). -/
def decodeByMap (w : Word) : Option Instr :=
  (opcodeMap.map (· w)).find? (fun i => i.row.selects w)

end Sys2Proof
end

