-- ==== Sys2Proof/Machine/State.lean ====
section
/-!
DEFINITION. The machine's state (10_state.md R20), the state after reset (R34), and the reasons a step can stop.
-/

namespace Sys2Proof.Machine

/-- The call stack: 16 slots of 16-bit return addresses (10_state.md R26). -/
abbrev Stack := Vector Word 16

/-- The display buffer: 32 rows of 64 one-bit cells, `DISP[r][c]` (10_state.md R30). -/
abbrev Display := Vector (Vector Bool 64) 32

/-- `MEM` as the list of the bytes that differ from what an unlisted address reads as (10_state.md R31). -/
abbrev Memory := List Host.Cell

/-- The cause held in `FAULT` (10_state.md R32, 60_exceptions.md R252). -/
inductive FaultCause where
  /-- Cause 0: no fault. -/
  | none
  /-- Cause 1: the instruction fetch needs an address above 0xFFF. -/
  | fetchRange
  /-- Cause 2: a data read needs an address above 0xFFF. -/
  | readRange
  /-- Cause 3: a data write needs an address above 0xFFF. -/
  | writeRange
  /-- Cause 4: a key vector is indexed with a value above 15. -/
  | keyIndex
  deriving DecidableEq, Repr

/-- The 3-bit cause code of 60_exceptions.md R252. -/
def FaultCause.code : FaultCause → BitVec 3
  | .none => 0
  | .fetchRange => 1
  | .readRange => 2
  | .writeRange => 3
  | .keyIndex => 4

/-- The `FAULT` register: a cause and an info value (10_state.md R32). -/
structure FaultStatus where
  cause : FaultCause
  info : Nat
  deriving DecidableEq, Repr

/-- An output strobe (00_scope.md R5, R9): outputs, not state of the machine. -/
inductive Strobe where
  /-- `redraw`, emitted by every executed `CLS` (60_exceptions.md R266). -/
  | redraw
  /-- `illegal(a, w)`, emitted by every executed UNKNOWN word (60_exceptions.md R267). -/
  | illegal (a : Word) (w : Word)
  deriving DecidableEq, Repr

/-- The state: the items of 10_state.md R20, then the model's own four fields. -/
structure State where
  /-- `V[0]` .. `V[15]` (R21); `VF` is `V[15]` (R22). -/
  v : Vector Byte 16
  /-- The address register `I` (R23). -/
  i : Word
  /-- The program counter `PC` (R24). -/
  pc : Word
  /-- The stack pointer `SP`, the number of pushed return addresses (R25). -/
  sp : Byte
  /-- `STACK[0]` .. `STACK[15]` (R26). -/
  stack : Stack
  /-- The delay timer `DT` (R27). -/
  dt : Byte
  /-- The sound timer `ST` (R28). -/
  st : Byte
  /-- `HELD`, bit k for key k (R29). -/
  held : Word
  /-- `REL`, newly released, bit k for key k (R29). -/
  rel : Word
  /-- `DISP` (R30). -/
  disp : Display
  /-- `MEM` (R31). -/
  mem : Memory
  /-- `FAULT` (R32). -/
  fault : FaultStatus
  /-- The model's own: cycles still to run before the next Tick (40_cycle.md R125; log entry 2). -/
  cyclesLeft : Nat
  /-- The model's own: how many Ticks have happened, the index of the next free key vectors (log entry 4). -/
  ticks : Nat
  /-- The model's own: how many random bytes were taken, the index of the next free one (log entry 3). -/
  draws : Nat
  /-- The model's own: the strobes emitted so far, newest first (10_state.md R36; log entry 5). -/
  trace : List Strobe
  deriving DecidableEq, Repr

/-- Why the model stops with a fault. The four faults of the spec are no stop: they are taken, as a next state. -/
inductive Fault where
  /-- Raised by `RET` in a state whose `SP` is above 16, where the slot it names does not exist (10_state.md R25, R26).
  No run reaches such a state (the invariant `State.Inv`). Safe. -/
  | stackIndex
  deriving DecidableEq, Repr

/-- Why the model refuses. -/
inductive Refusal where
  /-- Raised by an arm of `exec` whose instruction has no meaning yet; no arm is left in this model. Safe. -/
  | notModelled (mnemonic : String)
  /-- Raised by `resetEvent` on an image of more than 3584 bytes: "a fatal load error", no machine state exists
  (70_reset_and_hazards.md R293). Safe. -/
  | programTooLong
  deriving DecidableEq, Repr

/-- The blank display: every cell off (10_state.md R30). -/
def Display.blank : Display := Vector.replicate 32 (Vector.replicate 64 false)

/-- The state right after `Reset` with an empty image and the default FONT (70_reset_and_hazards.md R290): every item
of 10_state.md R34, and a whole tick period of cycles to run before the first Tick (R295). -/
def State.reset : State where
  v := Vector.replicate 16 0
  i := 0
  pc := 0x200
  sp := 0
  stack := Vector.replicate 16 0
  dt := 0
  st := 0
  held := 0
  rel := 0
  disp := Display.blank
  mem := []
  fault := ⟨.none, 0⟩
  cyclesLeft := Config.cyclesPerTick
  ticks := 0
  draws := 0
  trace := []

end Sys2Proof.Machine
end

