-- ==== Sys2Proof/Machine/Font.lean ====
section
/-!
DEFINITION. The built-in font (20_memory.md R62, R63) and what an address of memory reads as after reset when the image
does not cover it (R65).
-/

namespace Sys2Proof.Machine

/-- The parameter FONT: 16 glyphs of 5 bytes, glyph k at 5*k (20_memory.md R62). -/
abbrev Font := Vector (Vector Byte 5) 16

/-- The default FONT of 20_memory.md R63 (PRESUMED: "the customary CHIP-8 hexadecimal font", log entry 1). -/
def defaultFont : Font :=
  #v[#v[0xF0, 0x90, 0x90, 0x90, 0xF0], #v[0x20, 0x60, 0x20, 0x20, 0x70],
     #v[0xF0, 0x10, 0xF0, 0x80, 0xF0], #v[0xF0, 0x10, 0xF0, 0x10, 0xF0],
     #v[0x90, 0x90, 0xF0, 0x10, 0x10], #v[0xF0, 0x80, 0xF0, 0x10, 0xF0],
     #v[0xF0, 0x80, 0xF0, 0x90, 0xF0], #v[0xF0, 0x10, 0x20, 0x40, 0x40],
     #v[0xF0, 0x90, 0xF0, 0x90, 0xF0], #v[0xF0, 0x90, 0xF0, 0x10, 0xF0],
     #v[0xF0, 0x90, 0xF0, 0x90, 0x90], #v[0xE0, 0x90, 0xE0, 0x90, 0xE0],
     #v[0xF0, 0x80, 0x80, 0x80, 0xF0], #v[0xE0, 0x90, 0x90, 0x90, 0xE0],
     #v[0xF0, 0x80, 0xF0, 0x80, 0xF0], #v[0xF0, 0x80, 0xF0, 0x80, 0x80]]

/-- The 80 bytes of a font in address order: FONT[a] is glyph a/5, row a%5 (20_memory.md R62). -/
def fontBytes (font : Font) : List Byte := (font.toList.map Vector.toList).flatten

/-- What an address that memory does not list reads as: FONT below 0x050, else 0x00 (20_memory.md R65). -/
def unlisted (a : Nat) : Byte := (fontBytes defaultFont).getD a 0

end Sys2Proof.Machine
end

