-- ==== Sys2Proof/Machine/Ops.lean ====
section
/-!
DEFINITION. The named operations over memory, registers, stack, display and FAULT. Every read and every write of the
state goes through one of them.
-/

namespace Sys2Proof.Machine

/-! ### Memory as a list (20_memory.md R60 to R67) -/

/-- The byte at an address: the listed one, else what an unlisted address reads as. -/
def Memory.read : Memory → Nat → Byte
  | [], a => unlisted a
  | (b, w) :: m, a => if b = a then w else Memory.read m a

/-- A cell put in front of the first one with a higher address. -/
def Memory.insert (a : Nat) (w : Byte) : Memory → Memory
  | [] => [(a, w)]
  | (b, u) :: m => if a < b then (a, w) :: (b, u) :: m else (b, u) :: Memory.insert a w m

/-- One byte written: the address's old cell goes, and the new one is listed unless it holds what an unlisted address
reads as. -/
def Memory.write (m : Memory) (a : Nat) (w : Byte) : Memory :=
  let others := m.filter (fun c => c.1 ≠ a)
  if w = unlisted a then others else Memory.insert a w others

/-- The canonical form: addresses strictly rising, each below `Config.memSize`, no cell equal to what an unlisted
address reads as. -/
abbrev Memory.wf (m : Memory) : Prop :=
  m.Pairwise (fun c d => c.1 < d.1) ∧ ∀ c ∈ m, c.1 < Config.memSize ∧ c.2 ≠ unlisted c.1

/-- The bytes of addresses a, a+1, …, a+n-1, lowest first (20_memory.md R66). -/
def Memory.readRun (m : Memory) (a n : Nat) : List Byte := (List.range n).map (fun j => Memory.read m (a + j))

/-- The bytes written to a, a+1, …, lowest address first (20_memory.md R67). -/
def Memory.writeRun (m : Memory) (a : Nat) : List Byte → Memory
  | [] => m
  | w :: ws => Memory.writeRun (Memory.write m a w) (a + 1) ws

/-- The whole run a .. a+n-1 lies in 0x000 to 0xFFF; a run of no bytes touches no address (20_memory.md R66, R78). -/
def inRange (a n : Nat) : Bool := n == 0 || decide (a + n ≤ Config.memSize)

/-- The lowest address of a run from `a` that is above 0xFFF: `max(a, 0x1000)` (20_memory.md R66). -/
def firstOutOfRange (a : Nat) : Nat := max a Config.memSize

/-! ### Registers -/

/-- `V[r]` (10_state.md R21). -/
def State.reg (s : State) (r : Reg) : Byte := s.v[r]

/-- `VF`, general register 15 (10_state.md R22). -/
def regVF : Reg := 15

/-- `V[r] <- b`. -/
def State.setReg (s : State) (r : Reg) (b : Byte) : State := { s with v := s.v.set r b }

/-- `V[j] <- bs[j]` for each j the list has (43_index_memory.md R195). -/
def State.setRegs (s : State) (bs : List Byte) : State := { s with v := s.v.mapIdx (fun j old => bs.getD j old) }

/-- The list V[0], …, V[x] (43_index_memory.md R194). -/
def State.regsUpTo (s : State) (x : Reg) : List Byte := s.v.toList.take (x + 1)

/-- `I <- a`. -/
def State.setI (s : State) (a : Word) : State := { s with i := a }

/-- `PC <- a`. -/
def State.setPC (s : State) (a : Word) : State := { s with pc := a }

/-- The post-fetch increment and `skip`: `PC <- (PC + 2) % 65536` (40_cycle.md R122, 41_flow.md R140). -/
def State.advance (s : State) : State := s.setPC (s.pc + 2)

/-- The undoing of the post-fetch increment: `PC <- (PC - 2) % 65536` (45_keys_timers.md R232). -/
def State.rewind (s : State) : State := s.setPC (s.pc - 2)

/-- `skip` when the condition holds (41_flow.md R140). -/
def State.skipIf (s : State) (c : Bool) : State := if c then s.advance else s

/-- `DT <- b`. -/
def State.setDT (s : State) (b : Byte) : State := { s with dt := b }

/-- `ST <- b`. -/
def State.setST (s : State) (b : Byte) : State := { s with st := b }

/-! ### Call stack (10_state.md R26) -/

/-- `STACK[SP] <- a; SP <- SP + 1`, for an `SP` whose slot exists. -/
def State.push (s : State) (a : Word) (h : s.sp.toNat < 16) : State :=
  { s with stack := s.stack.set s.sp.toNat a, sp := s.sp + 1 }

/-- `SP <- t`. -/
def State.setSP (s : State) (t : Byte) : State := { s with sp := t }

/-! ### Display (10_state.md R30) -/

/-- `DISP[r][c]`; a row or column outside the grid has no cell and reads as off. -/
def Display.pixel (d : Display) (r c : Nat) : Bool :=
  if h : r < 32 ∧ c < 64 then (d[r]'h.1)[c]'h.2 else false

/-- `DISP[r][c] <- DISP[r][c] ^ 1`; a row or column outside the grid has no cell. -/
def Display.flip (d : Display) (r c : Nat) : Display :=
  if h : r < 32 ∧ c < 64 then d.set r ((d[r]'h.1).set c (!((d[r]'h.1)[c]'h.2)) h.2) h.1 else d

/-- The display buffer replaced. -/
def State.setDisp (s : State) (d : Display) : State := { s with disp := d }

/-! ### Memory of the state -/

/-- `MEM[a]` of the state. -/
def State.byte (s : State) (a : Nat) : Byte := Memory.read s.mem a

/-- The memory replaced. -/
def State.setMem (s : State) (m : Memory) : State := { s with mem := m }

/-! ### Outputs and draws -/

/-- `emit`: the strobe goes into the event trace and nothing else changes (10_state.md R36). -/
def State.emit (s : State) (o : Strobe) : State := { s with trace := o :: s.trace }

/-- The random byte of this cycle is taken: the next one is the next free value (42_load_alu.md R171). -/
def State.drawn (s : State) : State := { s with draws := s.draws + 1 }

/-- The free random byte this cycle may take (42_load_alu.md R171; log entry 3). -/
def State.rnd (s : State) : Byte := Config.randomByte s.draws

/-! ### Faults (60_exceptions.md R252 to R255) -/

/-- Fault entry (60_exceptions.md R254): `PC` holds the address `a` of the faulting instruction, `FAULT <- (cause, info)`,
and every other item is what it was before the cycle. -/
def State.takeFault (s : State) (a : Word) (cause : FaultCause) (info : Nat) : State :=
  { s with pc := a, fault := ⟨cause, info⟩ }

/-- A fault raised in the execute phase, where `PC` is the faulting instruction's address plus 2 (60_exceptions.md R254). -/
def State.raise (s : State) (cause : FaultCause) (info : Nat) : State := s.takeFault (s.pc - 2) cause info

/-- The machine is frozen: FAULT holds a cause (40_cycle.md R128). -/
def State.frozen (s : State) : Bool := s.fault.cause != .none

/-! ### The access primitives (20_memory.md R66, R67) -/

/-- `MemRead(a, n)` of the execute phase, its bytes given to `k`, or the fault `ReadRange` (20_memory.md R66). -/
def State.memRead (s : State) (a n : Nat) (k : List Byte → Host.Outcome State Fault Refusal) :
    Host.Outcome State Fault Refusal :=
  if inRange a n then k (Memory.readRun s.mem a n) else .next (s.raise .readRange (firstOutOfRange a))

/-- `MemWrite(a, n, v)`, or the fault `WriteRange` with nothing written (20_memory.md R67, R78). -/
def State.memWrite (s : State) (a : Nat) (bytes : List Byte) : Host.Outcome State Fault Refusal :=
  if inRange a bytes.length then .next (s.setMem (Memory.writeRun s.mem a bytes))
  else .next (s.raise .writeRange (firstOutOfRange a))

end Sys2Proof.Machine
end

