-- ==== Sys2Proof/Machine/Flags.lean ====
section
/-!
DEFINITION. The values VF receives as a flag (10_state.md R22) and the order of the two writes (00_scope.md R10).
-/

namespace Sys2Proof.Machine

/-- The flag value is always 0x00 or 0x01, a full 8-bit write (10_state.md R22). -/
def flagByte (c : Bool) : Byte := if c then 1 else 0

/-- `VF <- flag`. -/
def State.setVF (s : State) (c : Bool) : State := s.setReg regVF (flagByte c)

/-- The flag write first and the data write second, so that with x = 0xF the data stands
(00_scope.md R10, 42_load_alu.md R173). -/
def State.setFlagThenReg (s : State) (c : Bool) (x : Reg) (b : Byte) : State := (s.setVF c).setReg x b

/-- `ADD Vx,Vy`: carry out, the unbounded sum exceeds 255 (42_load_alu.md R166). -/
def carryFlag (a b : Byte) : Bool := decide (a.toNat + b.toNat > 255)

/-- `SUB` and `SUBN`: NOT borrow of `a - b`, false when b > a (42_load_alu.md R167, R169). -/
def noBorrowFlag (a b : Byte) : Bool := !decide (b.toNat > a.toNat)

/-- `SHR`: bit 0 before the shift (42_load_alu.md R168). -/
def shiftedOutLow (a : Byte) : Bool := a.getLsbD 0

/-- `SHL`: bit 7 before the shift (42_load_alu.md R170). -/
def shiftedOutHigh (a : Byte) : Bool := a.getLsbD 7

/-- `ADD I,Vx`: the stored result exceeds the 12-bit addressable space (43_index_memory.md R191). -/
def exceedsFlag (r : Word) : Bool := decide (r.toNat > 0x0FFF)

end Sys2Proof.Machine
end

