-- ==== Sys2Proof/Machine/Alu.lean ====
section
/-!
DEFINITION. Register loads, the ALU and the random instruction (42_load_alu.md). Operands are read before any write,
VF is written first and Vx second (00_scope.md R10).
-/

namespace Sys2Proof.Machine

/-- `LD Vx,byte` (42_load_alu.md R160). -/
def execLdByte (x : Reg) (kk : Byte) (s : State) : Host.Outcome State Fault Refusal := .next (s.setReg x kk)

/-- `ADD Vx,byte` (42_load_alu.md R161): wrapping, VF unaffected. -/
def execAddByte (x : Reg) (kk : Byte) (s : State) : Host.Outcome State Fault Refusal :=
  .next (s.setReg x (s.reg x + kk))

/-- `LD Vx,Vy` (42_load_alu.md R162). -/
def execLdReg (x y : Reg) (s : State) : Host.Outcome State Fault Refusal := .next (s.setReg x (s.reg y))

/-- `OR Vx,Vy` (42_load_alu.md R163). -/
def execOr (x y : Reg) (s : State) : Host.Outcome State Fault Refusal := .next (s.setReg x (s.reg x ||| s.reg y))

/-- `AND Vx,Vy` (42_load_alu.md R164). -/
def execAnd (x y : Reg) (s : State) : Host.Outcome State Fault Refusal := .next (s.setReg x (s.reg x &&& s.reg y))

/-- `XOR Vx,Vy` (42_load_alu.md R165). -/
def execXor (x y : Reg) (s : State) : Host.Outcome State Fault Refusal := .next (s.setReg x (s.reg x ^^^ s.reg y))

/-- `ADD Vx,Vy` (42_load_alu.md R166). -/
def execAddReg (x y : Reg) (s : State) : Host.Outcome State Fault Refusal :=
  .next (s.setFlagThenReg (carryFlag (s.reg x) (s.reg y)) x (s.reg x + s.reg y))

/-- `SUB Vx,Vy` (42_load_alu.md R167). -/
def execSubReg (x y : Reg) (s : State) : Host.Outcome State Fault Refusal :=
  .next (s.setFlagThenReg (noBorrowFlag (s.reg x) (s.reg y)) x (s.reg x - s.reg y))

/-- `SHR Vx` (42_load_alu.md R168): the y field is not used. -/
def execShr (x _y : Reg) (s : State) : Host.Outcome State Fault Refusal :=
  .next (s.setFlagThenReg (shiftedOutLow (s.reg x)) x (s.reg x >>> 1))

/-- `SUBN Vx,Vy` (42_load_alu.md R169). -/
def execSubnReg (x y : Reg) (s : State) : Host.Outcome State Fault Refusal :=
  .next (s.setFlagThenReg (noBorrowFlag (s.reg y) (s.reg x)) x (s.reg y - s.reg x))

/-- `SHL Vx` (42_load_alu.md R170): the y field is not used. -/
def execShl (x _y : Reg) (s : State) : Host.Outcome State Fault Refusal :=
  .next (s.setFlagThenReg (shiftedOutHigh (s.reg x)) x (s.reg x <<< 1))

/-- `RND Vx,byte` (42_load_alu.md R171): the free random byte of this cycle masked with the literal. -/
def execRnd (x : Reg) (kk : Byte) (s : State) : Host.Outcome State Fault Refusal :=
  .next ((s.setReg x (s.rnd &&& kk)).drawn)

end Sys2Proof.Machine
end

