-- ==== Sys2Proof/Machine/Operands.lean ====
section
/-!
DEFINITION. The operand forms of 30_encoding.md R103: literals, the glyph address F(Vx), the digits B of Vx, the key
vectors, and the sprite blit of DRW.
-/

namespace Sys2Proof.Machine

/-- `addr`: the 12-bit literal zero-extended to 16 bits (30_encoding.md R93). -/
def addrOperand (nnn : Addr12) : Word := nnn.setWidth 16

/-- A register value zero-extended to 16 bits (00_scope.md R7). -/
def wide (b : Byte) : Word := b.setWidth 16

/-- `F(Vx)`: 5 times the low nibble of Vx (43_index_memory.md R192). -/
def glyphAddr (b : Byte) : Word := 5 * (b.extractLsb' 0 4).setWidth 16

/-- `B`: the hundreds, tens and ones digits of Vx (43_index_memory.md R193). -/
def bcdDigits (b : Byte) : List Byte :=
  [BitVec.ofNat 8 (b.toNat / 100), BitVec.ofNat 8 (b.toNat / 10 % 10), BitVec.ofNat 8 (b.toNat % 10)]

/-- Bit k of a key vector: the state of key k (10_state.md R29). -/
def keyBit (vec : Word) (k : Nat) : Bool := vec.getLsbD k

/-- The least key code whose bit is set, if any (45_keys_timers.md R232). -/
def leastKey (vec : Word) : Option Nat := (List.range 16).find? (keyBit vec)

/-- A key vector indexed with Vx, the bit given to `k`, or the fault `KeyIndex(Vx)` above 15
(45_keys_timers.md R230, R231). -/
def State.keyOperand (s : State) (vec : Word) (b : Byte) (k : Bool → State) : State :=
  if b.toNat ≤ 15 then k (keyBit vec b.toNat) else s.raise .keyIndex b.toNat

/-! ### The sprite blit (44_display.md R211, R212) -/

/-- Sprite column `c` of a row byte at display row `py`: bit 7 - c, dropped past the right edge; `acc` is the display so
far and whether a cell went from on to off. -/
def blitCell (row : Byte) (x0 py : Nat) (acc : Display × Bool) (c : Nat) : Display × Bool :=
  if x0 + c ≤ 63 ∧ row.getLsbD (7 - c) then
    (Display.flip acc.1 py (x0 + c), acc.2 || Display.pixel acc.1 py (x0 + c))
  else acc

/-- One sprite row at display row `py`, dropped below the bottom edge. -/
def blitRow (x0 py : Nat) (row : Byte) (acc : Display × Bool) : Display × Bool :=
  if py ≤ 31 then (List.range 8).foldl (blitCell row x0 py) acc else acc

/-- The sprite rows from display row `py` down. -/
def blitRows (x0 : Nat) : Nat → List Byte → Display × Bool → Display × Bool
  | _, [], acc => acc
  | py, row :: rows, acc => blitRows x0 (py + 1) rows (blitRow x0 py row acc)

/-- The display and the collision flag after a sprite is drawn with its upper left corner at column `x0`, row `y0`. -/
def blit (d : Display) (x0 y0 : Nat) (rows : List Byte) : Display × Bool := blitRows x0 y0 rows (d, false)

end Sys2Proof.Machine
end

