-- ==== Sys2Proof/Machine/Flow.lean ====
section
/-!
DEFINITION. Control transfer (41_flow.md). On entry `PC` is the instruction's address plus 2 (40_cycle.md R122).
-/

namespace Sys2Proof.Machine

/-- `RET` (41_flow.md R141): the newest entry is popped into `PC` and keeps its slot; on an empty stack nothing. A
stack pointer above 16 names no slot and stops (`Fault.stackIndex`; log entry 7). -/
def execRet (s : State) : Host.Outcome State Fault Refusal :=
  match s.sp.toNat with
  | 0 => .next s
  | t + 1 =>
    match s.stack[t]? with
    | some a => .next ((s.setPC a).setSP (BitVec.ofNat 8 t))
    | none => .fault .stackIndex

/-- `JP addr` (41_flow.md R142). -/
def execJp (nnn : Addr12) (s : State) : Host.Outcome State Fault Refusal := .next (s.setPC (addrOperand nnn))

/-- `CALL addr` (41_flow.md R143): with room, push `PC` and jump; on a full stack nothing. -/
def execCall (nnn : Addr12) (s : State) : Host.Outcome State Fault Refusal :=
  if h : s.sp.toNat < 16 then .next ((s.push s.pc h).setPC (addrOperand nnn)) else .next s

/-- `SE Vx,byte` (41_flow.md R144). -/
def execSeByte (x : Reg) (kk : Byte) (s : State) : Host.Outcome State Fault Refusal :=
  .next (s.skipIf (s.reg x == kk))

/-- `SNE Vx,byte` (41_flow.md R145). -/
def execSneByte (x : Reg) (kk : Byte) (s : State) : Host.Outcome State Fault Refusal :=
  .next (s.skipIf (s.reg x != kk))

/-- `SE Vx,Vy` (41_flow.md R146). -/
def execSeReg (x y : Reg) (s : State) : Host.Outcome State Fault Refusal := .next (s.skipIf (s.reg x == s.reg y))

/-- `SNE Vx,Vy` (41_flow.md R147). -/
def execSneReg (x y : Reg) (s : State) : Host.Outcome State Fault Refusal := .next (s.skipIf (s.reg x != s.reg y))

/-- `JP V0,addr` (41_flow.md R148): `PC <- (nnn + V0) % 65536`, not masked to 12 bits. -/
def execJpV0 (nnn : Addr12) (s : State) : Host.Outcome State Fault Refusal :=
  .next (s.setPC (addrOperand nnn + wide (s.reg 0)))

end Sys2Proof.Machine
end

