-- ==== Sys2Proof/Machine/Index.lean ====
section
/-!
DEFINITION. The address register and the memory transfers (43_index_memory.md). No transfer changes `I` (R196).
-/

namespace Sys2Proof.Machine

/-- `LD I,addr` (43_index_memory.md R190). -/
def execLdI (nnn : Addr12) (s : State) : Host.Outcome State Fault Refusal := .next (s.setI (addrOperand nnn))

/-- `ADD I,Vx` (43_index_memory.md R191): VF tests the stored 16-bit result. -/
def execAddIVx (x : Reg) (s : State) : Host.Outcome State Fault Refusal :=
  .next ((s.setI (s.i + wide (s.reg x))).setVF (exceedsFlag (s.i + wide (s.reg x))))

/-- `LD I,F(Vx)` (43_index_memory.md R192). -/
def execLdIF (x : Reg) (s : State) : Host.Outcome State Fault Refusal := .next (s.setI (glyphAddr (s.reg x)))

/-- `LD B,Vx` (43_index_memory.md R193). -/
def execLdB (x : Reg) (s : State) : Host.Outcome State Fault Refusal := s.memWrite s.i.toNat (bcdDigits (s.reg x))

/-- `LD [I],Vx` (43_index_memory.md R194). -/
def execStoreRegs (x : Reg) (s : State) : Host.Outcome State Fault Refusal := s.memWrite s.i.toNat (s.regsUpTo x)

/-- `LD Vx,[I]` (43_index_memory.md R195). -/
def execLoadRegs (x : Reg) (s : State) : Host.Outcome State Fault Refusal :=
  s.memRead s.i.toNat (x + 1) (fun bytes => .next (s.setRegs bytes))

end Sys2Proof.Machine
end

