-- ==== Sys2Proof/Machine/Keys.lean ====
section
/-!
DEFINITION. Key and timer instructions (45_keys_timers.md).
-/

namespace Sys2Proof.Machine

/-- `SKP Vx` (45_keys_timers.md R230). -/
def execSkp (x : Reg) (s : State) : Host.Outcome State Fault Refusal :=
  .next (s.keyOperand s.held (s.reg x) (fun down => s.skipIf down))

/-- `SKNP Vx` (45_keys_timers.md R231). -/
def execSknp (x : Reg) (s : State) : Host.Outcome State Fault Refusal :=
  .next (s.keyOperand s.held (s.reg x) (fun down => s.skipIf (!down)))

/-- `LD Vx,K` (45_keys_timers.md R232): the least newly released key, or `PC` back to this instruction. -/
def execLdVxK (x : Reg) (s : State) : Host.Outcome State Fault Refusal :=
  match leastKey s.rel with
  | some k => .next (s.setReg x (BitVec.ofNat 8 k))
  | none => .next s.rewind

/-- `LD Vx,DT` (45_keys_timers.md R233). -/
def execLdVxDT (x : Reg) (s : State) : Host.Outcome State Fault Refusal := .next (s.setReg x s.dt)

/-- `LD DT,Vx` (45_keys_timers.md R234). -/
def execLdDTVx (x : Reg) (s : State) : Host.Outcome State Fault Refusal := .next (s.setDT (s.reg x))

/-- `LD ST,Vx` (45_keys_timers.md R235). -/
def execLdSTVx (x : Reg) (s : State) : Host.Outcome State Fault Refusal := .next (s.setST (s.reg x))

end Sys2Proof.Machine
end

