-- ==== Sys2Proof/Machine/Screen.lean ====
section
/-!
DEFINITION. The display instructions (44_display.md).
-/

namespace Sys2Proof.Machine

/-- `CLS` (44_display.md R210): every cell off, and the `redraw` strobe. -/
def execCls (s : State) : Host.Outcome State Fault Refusal := .next ((s.setDisp Display.blank).emit .redraw)

/-- `DRW Vx,Vy,n` (44_display.md R211): n bytes at `I` blitted at (Vx % 64, Vy % 32), VF the collision. -/
def execDrw (x y : Reg) (n : Fin 16) (s : State) : Host.Outcome State Fault Refusal :=
  s.memRead s.i.toNat n (fun rows =>
    let drawn := blit s.disp ((s.reg x).toNat % 64) ((s.reg y).toNat % 32) rows
    .next ((s.setDisp drawn.1).setVF drawn.2))

end Sys2Proof.Machine
end

