-- ==== Sys2Proof/Machine/Cycle.lean ====
section
/-!
DEFINITION. The three events of 40_cycle.md R120: Cycle (R122 to R124), Tick (60_exceptions.md R258) and Reset
(70_reset_and_hazards.md R290), and the scheduler that picks between Cycle and Tick (R125).
-/

namespace Sys2Proof.Machine

/-! ### Cycle -/

/-- The instruction fetch: the word at `PC`, high byte at the lower address (20_memory.md R68), at any parity of `PC`
(R71); `none` when an address of it is above 0xFFF. -/
def State.fetchWord (s : State) : Option Word :=
  if inRange s.pc.toNat 2 then some (wordOfBytes (s.byte s.pc.toNat) (s.byte (s.pc.toNat + 1))) else none

/-- The execute phase of an UNKNOWN word (40_cycle.md R124): the `illegal` strobe with its address and the word. -/
def execUnknown (w : Word) (s : State) : State := s.emit (.illegal (s.pc - 2) w)

/-- The execute phase of a word (40_cycle.md R123). -/
def executeWord (w : Word) (s : State) : Host.Outcome State Fault Refusal :=
  match decodeWord w with
  | some i => exec i s
  | none => .next (execUnknown w s)

/-- The Cycle event (40_cycle.md R122, R128): nothing on a frozen machine; else fetch, increment, execute, or the fault
`FetchRange`. -/
def cycleEvent (s : State) : Host.Outcome State Fault Refusal :=
  if s.frozen then .next s
  else
    match s.fetchWord with
    | some w => executeWord w s.advance
    | none => .next (s.takeFault s.pc .fetchRange (firstOutOfRange s.pc.toNat))

/-! ### Tick -/

/-- One decrement toward zero, "never wrapping below zero" (60_exceptions.md R259). -/
def countDown (t : Byte) : Byte := if t.toNat > 0 then t - 1 else t

/-- The two key vectors replaced (60_exceptions.md R260). -/
def State.setKeys (s : State) (held released : Word) : State := { s with held := held, rel := released }

/-- The Tick event (60_exceptions.md R258): nothing on a frozen machine; else both timers count down and both key
vectors are replaced. -/
def tickEvent (held released : Word) (s : State) : State :=
  if s.frozen then s else ((s.setDT (countDown s.dt)).setST (countDown s.st)).setKeys held released

/-! ### The scheduler (40_cycle.md R125) -/

/-- One cycle of the tick period is used. -/
def State.setCyclesLeft (s : State) (n : Nat) : State := { s with cyclesLeft := n }

/-- A Tick ends the period: the next one has `CYCLES_PER_TICK` cycles, and the Tick after it takes the next free
vectors. -/
def State.startPeriod (s : State) : State := { s with cyclesLeft := Config.cyclesPerTick, ticks := s.ticks + 1 }

/-- The event that is due: a Tick when no cycle of the period is left, else a Cycle (40_cycle.md R125). -/
def scheduledEvent (s : State) : Host.Outcome State Fault Refusal :=
  match s.cyclesLeft with
  | 0 => .next (tickEvent (Config.heldVector s.ticks) (Config.releasedVector s.ticks) s.startPeriod)
  | n + 1 => cycleEvent (s.setCyclesLeft n)

/-! ### Reset and program load -/

/-- The memory of 20_memory.md R65: FONT at 0x000, the image verbatim from 0x200, 0x00 elsewhere. -/
def resetMemory (font : Font) (program : List Byte) : Memory :=
  Memory.writeRun (Memory.writeRun [] 0 (fontBytes font)) Config.loadAddr program

/-- The Reset event (70_reset_and_hazards.md R290): every item at its reset value; an image of more than 3584 bytes is
refused by the loader (R293). -/
def resetEvent (font : Font) (program : List Byte) : Host.Outcome State Fault Refusal :=
  if imageWellFormed program then .next (State.reset.setMem (resetMemory font program)) else .refused .programTooLong

/-- The bytes placed at `PC` and a Cycle made the next event of a machine that is not frozen. Where `PC` cannot be
fetched from there is no place for them and the state stays. -/
def State.placeAtPC (s : State) (bytes : List Byte) : State :=
  if inRange s.pc.toNat bytes.length then
    { s with mem := Memory.writeRun s.mem s.pc.toNat bytes, fault := ⟨.none, 0⟩, cyclesLeft := 1 }
  else s

end Sys2Proof.Machine
end

