-- ==== Sys2Proof/Machine/Step.lean ====
section
/-!
DEFINITION. One step of the machine: the event that is due (40_cycle.md R125).
-/

namespace Sys2Proof.Machine

/-- One event of the run (40_cycle.md R121): a Cycle, or the Tick that ends a tick period. -/
def step (s : State) : Host.Outcome State Fault Refusal := scheduledEvent s

/-- The state with a table row's word stored where the next step fetches it. -/
def State.withFetchWord (s : State) (nbits w : Nat) : State := s.placeAtPC (tableBytes nbits w)

end Sys2Proof.Machine
end

