-- ==== Sys2Proof/Safety.lean ====
section
/-!
DEFINITION. The terms claims use: the items of the state, what a step leaves unchanged, the invariant of a run, and
what counts as a run without a fault or an illegal word.
-/

namespace Sys2Proof.Machine

/-- The items of the state one can name (10_state.md R20), each register, slot, cell and byte for itself, and the
model's own four fields. -/
inductive Item where
  | reg (r : Reg)
  | index
  | pc
  | sp
  | slot (k : Fin 16)
  | dt
  | st
  | held
  | rel
  | cell (r : Fin 32) (c : Fin 64)
  | byte (a : Nat)
  | fault
  | cyclesLeft
  | ticks
  | draws
  | trace
  deriving DecidableEq, Repr

/-- The item holds the same in both states. -/
def Item.same : Item → State → State → Prop
  | .reg r, s, t => t.reg r = s.reg r
  | .index, s, t => t.i = s.i
  | .pc, s, t => t.pc = s.pc
  | .sp, s, t => t.sp = s.sp
  | .slot k, s, t => t.stack[k] = s.stack[k]
  | .dt, s, t => t.dt = s.dt
  | .st, s, t => t.st = s.st
  | .held, s, t => t.held = s.held
  | .rel, s, t => t.rel = s.rel
  | .cell r c, s, t => Display.pixel t.disp r c = Display.pixel s.disp r c
  | .byte a, s, t => t.byte a = s.byte a
  | .fault, s, t => t.fault = s.fault
  | .cyclesLeft, s, t => t.cyclesLeft = s.cyclesLeft
  | .ticks, s, t => t.ticks = s.ticks
  | .draws, s, t => t.draws = s.draws
  | .trace, s, t => t.trace = s.trace

/-- From `s` to `t` nothing changes but items that `w` names. -/
def OnlyChanges (w : Item → Prop) (s t : State) : Prop := ∀ item, ¬ w item → item.same s t

/-- The outcome is a next state, and `P` holds of it. -/
def Completes (o : Host.Outcome State Fault Refusal) (P : State → Prop) : Prop := ∃ t, o = .next t ∧ P t

/-- The instruction's word has the row's fixed bits, `w & mask = match` (30_encoding.md R96), and decodes back to it. -/
def InRow (mask bits : Word) (i : Instr) : Prop := encode i &&& mask = bits ∧ decodeWord (encode i) = some i

/-- The state a fault raised in the execute phase leaves: the instruction's own address in PC, the cause and the info in
FAULT, nothing else changed since the cycle began (60_exceptions.md R254). -/
def FaultedFrom (s : State) (cause : FaultCause) (info : Nat) (t : State) : Prop :=
  t.pc = s.pc - 2 ∧ t.fault = ⟨cause, info⟩ ∧ OnlyChanges (· ∈ [.pc, .fault]) s t

/-- A byte of the run of n bytes from address a. -/
def Item.inRun (a n : Nat) (item : Item) : Prop := ∃ b, item = .byte b ∧ a ≤ b ∧ b < a + n

/-- A display cell. -/
def Item.isCell (item : Item) : Prop := ∃ r c, item = .cell r c

/-- The items the execute phase of an instruction may write: the "Written by" column of 10_state.md R37, and PC with
FAULT for the six instructions that can raise a fault (60_exceptions.md R253, R254). -/
def writeSet (s : State) : Instr → Item → Prop
  | .cls, it => it.isCell ∨ it = .trace
  | .ret, it => it = .pc ∨ it = .sp
  | .jp _, it => it = .pc
  | .call _, it => it = .pc ∨ it = .sp ∨ ∃ k : Fin 16, it = .slot k ∧ k.val = s.sp.toNat
  | .seByte _ _, it => it = .pc
  | .sneByte _ _, it => it = .pc
  | .seReg _ _, it => it = .pc
  | .ldByte x _, it => it = .reg x
  | .addByte x _, it => it = .reg x
  | .ldReg x _, it => it = .reg x
  | .orReg x _, it => it = .reg x
  | .andReg x _, it => it = .reg x
  | .xorReg x _, it => it = .reg x
  | .addReg x _, it => it = .reg x ∨ it = .reg regVF
  | .subReg x _, it => it = .reg x ∨ it = .reg regVF
  | .shr x _, it => it = .reg x ∨ it = .reg regVF
  | .subnReg x _, it => it = .reg x ∨ it = .reg regVF
  | .shl x _, it => it = .reg x ∨ it = .reg regVF
  | .sneReg _ _, it => it = .pc
  | .ldI _, it => it = .index
  | .jpV0 _, it => it = .pc
  | .rnd x _, it => it = .reg x ∨ it = .draws
  | .drw _ _ _, it => it.isCell ∨ it = .reg regVF ∨ it = .pc ∨ it = .fault
  | .skp _, it => it = .pc ∨ it = .fault
  | .sknp _, it => it = .pc ∨ it = .fault
  | .ldVxDT x, it => it = .reg x
  | .ldVxK x, it => it = .reg x ∨ it = .pc
  | .ldDTVx _, it => it = .dt
  | .ldSTVx _, it => it = .st
  | .addIVx _, it => it = .index ∨ it = .reg regVF
  | .ldIF _, it => it = .index
  | .ldB _, it => it.inRun s.i.toNat 3 ∨ it = .pc ∨ it = .fault
  | .storeRegs x, it => it.inRun s.i.toNat (x + 1) ∨ it = .pc ∨ it = .fault
  | .loadRegs x, it => (∃ r, it = .reg r ∧ r ≤ x) ∨ it = .pc ∨ it = .fault

/-- The invariant of every run: SP counts the pushed entries (10_state.md R25, R35), and memory is in canonical form. -/
abbrev State.Inv (s : State) : Prop := s.sp.toNat ≤ 16 ∧ Memory.wf s.mem

/-- No fault was taken: the premise of every claim about a program (60_exceptions.md R254). -/
def State.running (s : State) : Prop := s.frozen = false

/-- No UNKNOWN word was executed (60_exceptions.md R267). -/
def State.noIllegal (s : State) : Prop := ∀ a w, Strobe.illegal a w ∉ s.trace

/-- The host may stop the run here, after a Tick and before the first cycle of the next period; the state is then the
run's final state, since stopping changes nothing (40_cycle.md R126). Right after Reset no Tick has happened and the stop
signal is not sampled. -/
def State.mayStop (s : State) : Prop := 0 < s.ticks ∧ s.cyclesLeft = Config.cyclesPerTick

/-- The sprite has a set bit at display cell (r, c), drawn with its upper left corner at column x0, row y0
(44_display.md R211, R212): sprite row r - y0, sprite column c - x0, bit 7 leftmost. -/
def spriteCovers (x0 y0 : Nat) (rows : List Byte) (r c : Nat) : Bool :=
  decide (y0 ≤ r ∧ r < y0 + rows.length ∧ x0 ≤ c ∧ c < x0 + 8) && (rows.getD (r - y0) 0).getLsbD (7 - (c - x0))

end Sys2Proof.Machine
end

