-- ==== Sys2Proof/Certificates/Slice0/Obligations.lean ====
section
/-!
DEFINITION. The statements about the machine, from the spec's numbered rules. Every one holds in every state, reached by
a run or not. Where a statement speaks of `exec i s`, the state `s` is the one the execute phase starts from, with `PC`
already at the instruction's address plus 2 (40_cycle.md R122).
-/

open Sys2Proof Sys2Proof.Machine

/-! ### Encoding -/

/-- Decoding the two bytes of an instruction's word gives that instruction back, for every instruction and every operand;
every instruction is well formed (30_encoding.md R92, R94). -/
def Obligations.DecodeEncodeRoundTrip : Prop :=
  ∀ i : Instr, i.wellFormed = true ∧ decode (bytesOfWord (encode i)) = .ok (i, [])

/-- Encoding a decoded word gives the word back, but for w[11:8] of CLS and RET, which the decoder ignores
(30_encoding.md R97, R102). -/
def Obligations.EncodeDecodeRoundTrip : Prop :=
  ∀ (w : Word) (i : Instr), decodeWord w = some i → encode i = if fieldOp w = 0 then w &&& 0xF0FF else w

/-- The two-level decode procedure of R94 reads from every word the instruction of the opcode map R96 whose mask and
match select it, and no instruction where no row selects it. -/
def Obligations.ProcedureAgreesWithOpcodeMap : Prop := ∀ w : Word, decodeWord w = decodeByMap w

/-- The patterns of the opcode map are pairwise disjoint (30_encoding.md R95). -/
def Obligations.OpcodeRowsDisjoint : Prop :=
  ∀ (w : Word) (i j : Instr), i.row.selects w = true → j.row.selects w = true → i.row = j.row

/-- The UNKNOWN words are exactly those of the table of 30_encoding.md R100. -/
def Obligations.UnknownWordsAreTheListedOnes : Prop :=
  ∀ w : Word, decodeWord w = none ↔
    (fieldOp w = 0x0 ∧ fieldKK w ∉ [0xE0, 0xEE]) ∨
    (fieldOp w = 0x5 ∧ fieldN w ≠ 0) ∨
    (fieldOp w = 0x8 ∧ fieldN w ∈ [0x8, 0x9, 0xA, 0xB, 0xC, 0xD, 0xF]) ∨
    (fieldOp w = 0x9 ∧ fieldN w ≠ 0) ∨
    (fieldOp w = 0xE ∧ fieldKK w ∉ [0x9E, 0xA1]) ∨
    (fieldOp w = 0xF ∧ fieldKK w ∉ [0x07, 0x0A, 0x15, 0x18, 0x1E, 0x29, 0x33, 0x55, 0x65])

/-- Words written out from the encodings decode to the instructions they stand for (95_test_vectors.md W2, W8, W10, W16,
W24, W26, W28). -/
def Obligations.SampleWordsDecode : Prop :=
  decodeTableWord 16 0x05E0 = some .cls ∧ decodeTableWord 16 0x1ABC = some (.jp 0xABC) ∧
  decodeTableWord 16 0x3A7F = some (.seByte 10 0x7F) ∧ decodeTableWord 16 0x8AB5 = some (.subReg 10 11) ∧
  decodeTableWord 16 0xD125 = some (.drw 1 2 5) ∧ decodeTableWord 16 0xE1A1 = some (.sknp 1) ∧
  decodeTableWord 16 0xF333 = some (.ldB 3)

/-! ### The cycle -/

/-- When the machine is not frozen, a cycle of the tick period is due and the two bytes at PC are in range and decode to
an instruction, the step is the instruction's execute phase from the state with PC advanced by 2 and one cycle of the
period used (40_cycle.md R122, R123, R125). That a cycle of the period is due and that it is counted in the state are the
model's choice (log entry 2). -/
def Obligations.StepRunsDecodedInstruction : Prop :=
  ∀ (s : State) (n : Nat) (i : Instr), s.running → s.cyclesLeft = n + 1 → s.pc.toNat + 2 ≤ 0x1000 →
    decode (Memory.readRun s.mem s.pc.toNat 2) = .ok (i, []) →
    i.wellFormed = true ∧ step s = exec i ((s.setCyclesLeft n).setPC (s.pc + 2))

/-- A step on an UNKNOWN word emits the `illegal` strobe with its address and the word, advances PC by 2 and changes
nothing else but the scheduler's count; 0x0000 is UNKNOWN (40_cycle.md R124, R125). That a cycle of the period is due and
that it is counted in the state are the model's choice (log entry 2), and so is the list that records the strobe (log
entry 5). -/
def Obligations.UnknownWordIsANoOp : Prop :=
  decodeWord 0 = none ∧
  ∀ (s : State) (n : Nat) (w : Word), s.running → s.cyclesLeft = n + 1 → s.fetchWord = some w → decodeWord w = none →
    Completes (step s) (fun t => t.pc = s.pc + 2 ∧ t.trace = .illegal s.pc w :: s.trace ∧ t.cyclesLeft = n ∧
      OnlyChanges (· ∈ [.pc, .trace, .cyclesLeft]) s t)

/-- The fetched word has the byte at PC as its high byte and the byte at PC + 1 as its low byte, whatever the parity of
PC (20_memory.md R68). -/
def Obligations.FetchIsBigEndian : Prop :=
  ∀ (s : State), s.pc.toNat ≤ 0xFFE →
    ∃ w : Word, s.fetchWord = some w ∧ w.toNat = (s.byte s.pc.toNat).toNat * 256 + (s.byte (s.pc.toNat + 1)).toNat

/-- Which fault can be raised by what: every cycle raises FetchRange at its fetch when PC >= 0xFFF; in the execute phase
DRW and LD Vx,[I] can raise ReadRange, LD B,Vx and LD [I],Vx WriteRange, SKP and SKNP KeyIndex, and nothing else raises
anything (60_exceptions.md R253). -/
def Obligations.WhichInstructionRaisesWhat : Prop :=
  (∀ s : State, s.running → 0xFFF ≤ s.pc.toNat →
    Completes (cycleEvent s) (fun t => t.fault = ⟨.fetchRange, max s.pc.toNat 0x1000⟩)) ∧
  (∀ (i : Instr) (s t : State), s.fault.cause = .none → exec i s = .next t →
    match t.fault.cause with
    | .none => True
    | .fetchRange => False
    | .readRange => (∃ x y n, i = .drw x y n) ∨ ∃ x, i = .loadRegs x
    | .writeRange => (∃ x, i = .ldB x) ∨ ∃ x, i = .storeRegs x
    | .keyIndex => (∃ x, i = .skp x) ∨ ∃ x, i = .sknp x) ∧
  (∀ (s t : State) (w : Word), s.fault.cause = .none → executeWord w s = .next t → decodeWord w = none →
    t.fault.cause = .none)

/-- Faults are precise: when a cycle raises a fault, every item of state is what it was before the cycle, PC included, but
for FAULT, which holds the cause and its info (R252); no strobe is emitted; and then no Cycle and no Tick changes
anything (60_exceptions.md R254). -/
def Obligations.FaultUndoesTheCycle : Prop :=
  ∀ s t : State, s.running → cycleEvent s = .next t → t.fault.cause ≠ .none →
    OnlyChanges (· ∈ [.fault]) s t ∧
    ((0xFFF ≤ s.pc.toNat ∧ t.fault = ⟨.fetchRange, max s.pc.toNat 0x1000⟩) ∨
      t.fault = ⟨.readRange, max s.i.toNat 0x1000⟩ ∨ t.fault = ⟨.writeRange, max s.i.toNat 0x1000⟩ ∨
      ∃ x, 15 < (s.reg x).toNat ∧ t.fault = ⟨.keyIndex, (s.reg x).toNat⟩) ∧
    cycleEvent t = .next t ∧ ∀ held released, tickEvent held released t = t

/-- A frozen machine stays as it is for ever: no number of events, Cycles and Ticks, changes more than the scheduler's
counts (40_cycle.md R128, 60_exceptions.md R258). That the counts are in the state and go on is the model's choice (log
entries 2 and 4). -/
def Obligations.FrozenMachineStaysFrozen : Prop :=
  ∀ (k : Nat) (s : State), s.fault.cause ≠ .none →
    Completes (Sys2Proof.core.run k s) (fun t => OnlyChanges (· ∈ [.cyclesLeft, .ticks]) s t)

/-- The word that `withFetchWord` places is the one the very next step runs, from a state that differs in PC, FAULT, the
scheduler's count and the two bytes of the word only. That placing it stands for a load is the model's choice (log entry
6), and so is the count (log entry 2). -/
def Obligations.PlacedWordRunsNext : Prop :=
  ∀ (s : State) (w : Word) (i : Instr), s.pc.toNat + 2 ≤ 0x1000 → decodeTableWord 16 w.toNat = some i →
    ∃ u, step (s.withFetchWord 16 w.toNat) = exec i u ∧ u.pc = s.pc + 2 ∧ u.fault = ⟨.none, 0⟩ ∧
      u.byte s.pc.toNat = w.extractLsb' 8 8 ∧ u.byte (s.pc.toNat + 1) = w.extractLsb' 0 8 ∧
      OnlyChanges (· ∈ [.pc, .fault, .cyclesLeft, .byte s.pc.toNat, .byte (s.pc.toNat + 1)]) s u

/-! ### Ticks and the schedule -/

/-- A Tick lowers each timer that is not 0 by exactly 1, replaces both key vectors and changes nothing else; a frozen
machine ignores it (60_exceptions.md R258). -/
def Obligations.TickCountsDownAndReloadsKeys : Prop :=
  ∀ (held released : Word) (s : State),
    (s.fault.cause ≠ .none → tickEvent held released s = s) ∧
    (s.fault.cause = .none →
      let t := tickEvent held released s
      t.dt.toNat = (if s.dt.toNat > 0 then s.dt.toNat - 1 else 0) ∧
      t.st.toNat = (if s.st.toNat > 0 then s.st.toNat - 1 else 0) ∧
      (∀ k < 16, t.held.getLsbD k = held.getLsbD k ∧ t.rel.getLsbD k = released.getLsbD k) ∧
      OnlyChanges (· ∈ [.dt, .st, .held, .rel]) s t)

/-- After any number of Ticks with no cycle between, each timer has gone down by that number and never below zero, and
the key vectors are the last ones supplied (60_exceptions.md R259, R260). -/
def Obligations.TimersStopAtZero : Prop :=
  ∀ (keys : List (Word × Word)) (last : Word × Word) (s : State), s.fault.cause = .none →
    let t := (keys ++ [last]).foldl (fun u k => tickEvent k.1 k.2 u) s
    t.dt.toNat = s.dt.toNat - (keys.length + 1) ∧ t.st.toNat = s.st.toNat - (keys.length + 1) ∧
      t.held = last.1 ∧ t.rel = last.2

/-- At the end of a tick period the step is the Tick with the vectors the host supplies, whatever they are, and the next
period has CYCLES_PER_TICK cycles (40_cycle.md R125). The schedule and the numbering of the vectors are the model's
choice (log entries 2 and 4). -/
def Obligations.StepTicksWhenPeriodEnds : Prop :=
  ∀ s : State, s.running → s.cyclesLeft = 0 →
    Completes (step s) (fun t => t.held = Config.heldVector s.ticks ∧ t.rel = Config.releasedVector s.ticks ∧
      t.dt.toNat = s.dt.toNat - 1 ∧ t.st.toNat = s.st.toNat - 1 ∧ t.cyclesLeft = Config.cyclesPerTick ∧
      t.ticks = s.ticks + 1 ∧ OnlyChanges (· ∈ [.dt, .st, .held, .rel, .cyclesLeft, .ticks]) s t)

/-- A tick period is its cycles, then one Tick: from a state with n cycles left, n steps reach the Tick with the key
vectors and the count of Ticks unchanged, so every cycle of a period sees the same keys; the step after them is the
Tick, and a period from reset has CYCLES_PER_TICK cycles. After that Tick the host may stop the run, and right after
Reset it may not (40_cycle.md R125, R126, 60_exceptions.md R261, 70_reset_and_hazards.md R297). The schedule held in the
state is the model's choice (log entry 2). -/
def Obligations.CyclesOfAPeriodSeeTheSameKeys : Prop :=
  State.reset.cyclesLeft = Config.cyclesPerTick ∧ ¬ State.reset.mayStop ∧
  ∀ (n : Nat) (s t : State), s.cyclesLeft = n → Sys2Proof.core.run n s = .next t →
    t.cyclesLeft = 0 ∧ t.ticks = s.ticks ∧ t.held = s.held ∧ t.rel = s.rel ∧
    Completes (step t) (fun u => u.ticks = s.ticks + 1 ∧ u.cyclesLeft = Config.cyclesPerTick ∧ u.mayStop)

/-! ### Reset -/

/-- Reset of an accepted image with any font puts every item at its reset value (10_state.md R34, 20_memory.md
R65). -/
def Obligations.ResetPutsEveryItemAtItsValue : Prop :=
  ∀ (font : Font) (program : List Byte), program.length ≤ 3584 →
    Completes (resetEvent font program) (fun t =>
      (∀ r, t.reg r = 0) ∧ t.i = 0 ∧ t.pc = 0x0200 ∧ t.sp = 0 ∧ (∀ k : Fin 16, t.stack[k] = 0) ∧
      t.dt = 0 ∧ t.st = 0 ∧ t.held = 0 ∧ t.rel = 0 ∧
      (∀ (r : Fin 32) (c : Fin 64), Display.pixel t.disp r c = false) ∧ t.fault = ⟨.none, 0⟩ ∧
      (∀ (k : Fin 16) (j : Fin 5), t.byte (5 * k + j) = font[k][j]) ∧
      (∀ j < program.length, t.byte (0x200 + j) = program.getD j 0) ∧
      (∀ a < 0x1000, 0x50 ≤ a → (a < 0x200 ∨ 0x200 + program.length ≤ a) → t.byte a = 0))

/-- An image of more than 3584 bytes is refused by the loader and no state exists; one of at most 3584 is accepted
(70_reset_and_hazards.md R293). -/
def Obligations.LoaderRefusesLongImages : Prop :=
  ∀ (font : Font) (program : List Byte),
    (3584 < program.length → resetEvent font program = .refused .programTooLong) ∧
    (program.length ≤ 3584 → Completes (resetEvent font program) (fun t => t.running))

/-- The model's own choice (log entries 1 and 6): State.reset is Reset with the default font and an empty image. -/
def Obligations.ResetIsEmptyLoad : Prop := resetEvent defaultFont [] = .next State.reset

/-! ### Invariants and whole-machine rules -/

/-- The invariant holds after every accepted Reset: SP is 0 to 16 and memory is in canonical form. -/
def Obligations.InvariantHoldsAtReset : Prop :=
  State.reset.Inv ∧ ∀ (font : Font) (program : List Byte), program.length ≤ 3584 →
    Completes (resetEvent font program) State.Inv

/-- From every state with SP at most 16 and memory in canonical form, a step answers a next state that is so again: no
step stops with a fault or a refusal (10_state.md R25, R35). -/
def Obligations.StepKeepsInvariant : Prop := ∀ s : State, s.Inv → Completes (step s) State.Inv

/-- Every run of every program: after any accepted Reset, any number of events leads to a state with SP 0 to 16 and with
the registers, the timers and the cause code in their ranges (10_state.md R35). -/
def Obligations.ReachableStatesAreInRange : Prop :=
  ∀ (font : Font) (program : List Byte) (k : Nat), program.length ≤ 3584 →
    Completes (resetEvent font program) (fun s => Completes (Sys2Proof.core.run k s) (fun t =>
      t.sp.toNat ≤ 16 ∧ (∀ r, (t.reg r).toNat ≤ 255) ∧ t.dt.toNat ≤ 255 ∧ t.st.toNat ≤ 255 ∧
      t.i.toNat ≤ 65535 ∧ t.pc.toNat ≤ 65535 ∧ t.fault.cause.code.toNat ≤ 4))

/-- The frame of every instruction: an execute phase that answers a next state changes only the items the access table
names for the instruction, and PC and FAULT where it can fault (10_state.md R37, 60_exceptions.md R253). -/
def Obligations.ExecChangesOnlyItsWriteSet : Prop :=
  ∀ (i : Instr) (s t : State), exec i s = .next t → OnlyChanges (writeSet s i) s t

/-- No step changes a display cell but one that runs CLS or DRW (44_display.md R213). -/
def Obligations.OnlyClsAndDrwWriteTheDisplay : Prop :=
  ∀ (s t : State) (r : Fin 32) (c : Fin 64), step s = .next t →
    Display.pixel t.disp r c ≠ Display.pixel s.disp r c →
    s.running ∧ ∃ w, s.fetchWord = some w ∧ (decodeWord w = some .cls ∨ ∃ x y n, decodeWord w = some (.drw x y n))

/-- Within a tick period no step changes HELD or REL, and none changes DT or ST but `LD DT,Vx` and `LD ST,Vx`
(70_reset_and_hazards.md R297, R298). The schedule held in the state is the model's choice (log entry 2). -/
def Obligations.TimersAndKeysChangeOnlyAtTicks : Prop :=
  ∀ s t : State, s.cyclesLeft ≠ 0 → step s = .next t →
    t.held = s.held ∧ t.rel = s.rel ∧
    (t.dt ≠ s.dt → ∃ w x, s.fetchWord = some w ∧ decodeWord w = some (.ldDTVx x)) ∧
    (t.st ≠ s.st → ∃ w x, s.fetchWord = some w ∧ decodeWord w = some (.ldSTVx x))

/-- The strobes of a step: `redraw` by every executed `CLS`, `illegal` with the address and the word by every executed
UNKNOWN word, and by nothing else (60_exceptions.md R266, R267). The list that records them and the count that says a
Cycle is due are the model's choice (log entries 5 and 2). -/
def Obligations.StrobesComeFromClsAndUnknownWords : Prop :=
  ∀ s t : State, step s = .next t →
    (∀ w, s.running → s.cyclesLeft ≠ 0 → s.fetchWord = some w →
      t.trace = if decodeWord w = some .cls then .redraw :: s.trace
        else if decodeWord w = none then .illegal s.pc w :: s.trace else s.trace) ∧
    (¬ s.running ∨ s.cyclesLeft = 0 ∨ s.fetchWord = none → t.trace = s.trace)

/-- No instruction writes VF but the seven flag instructions of the table of R22 and those whose destination it is: x = 15
of an instruction that writes Vx (10_state.md R22). -/
def Obligations.OnlyFlagInstructionsWriteVF : Prop :=
  ∀ (i : Instr) (s t : State), exec i s = .next t → t.reg 15 ≠ s.reg 15 →
    (∃ x y, i = .addReg x y ∨ i = .subReg x y ∨ i = .shr x y ∨ i = .subnReg x y ∨ i = .shl x y) ∨
    (∃ x y n, i = .drw x y n) ∨ (∃ x, i = .addIVx x) ∨
    (∃ kk, i = .ldByte 15 kk ∨ i = .addByte 15 kk ∨ i = .rnd 15 kk) ∨
    (∃ y, i = .ldReg 15 y ∨ i = .orReg 15 y ∨ i = .andReg 15 y ∨ i = .xorReg 15 y) ∨
    i = .ldVxDT 15 ∨ i = .ldVxK 15 ∨ i = .loadRegs 15

/-- The sound timer drives nothing: the execute phase from two states that differ in ST alone gives outcomes that differ
in ST alone, for every instruction but LD ST,Vx, after which they do not differ (10_state.md R28,
60_exceptions.md R272). -/
def Obligations.SoundTimerInfluencesNothing : Prop :=
  (∀ (i : Instr) (s : State) (b : Byte), (∀ x, i ≠ .ldSTVx x) →
    exec i (s.setST b) = match exec i s with | .next t => .next (t.setST b) | .fault r => .fault r | .refused r => .refused r) ∧
  (∀ (x : Reg) (s : State) (b : Byte), exec (.ldSTVx x) (s.setST b) = exec (.ldSTVx x) s)

/-! ### Control transfer -/

/-- RET: with SP > 0 the newest entry goes to PC and SP goes down by 1, the slot keeps its content; with SP = 0 nothing
changes; w[11:8] of its word is ignored (41_flow.md R141). -/
def Obligations.RetPopsTheNewestEntry : Prop :=
  InRow 0xF0FF 0x00EE .ret ∧ (∀ w : Word, w &&& 0xF0FF = 0x00EE → decodeWord w = some .ret) ∧ ∀ s : State,
    (s.sp = 0 → exec .ret s = .next s) ∧
    (∀ k : Fin 16, s.sp.toNat = k + 1 →
      Completes (exec .ret s) (fun t => t.pc = s.stack[k] ∧ t.sp.toNat = k ∧ OnlyChanges (· ∈ [.pc, .sp]) s t))

/-- The model's own stop (log entry 7): RET in a state whose SP is above 16, which no run reaches, has no slot to pop and
stops with the fault stackIndex. -/
def Obligations.RetStopsWithoutASlot : Prop :=
  ∀ s : State, 16 < s.sp.toNat → exec .ret s = .fault .stackIndex

/-- JP: PC becomes the 12-bit literal (41_flow.md R142). -/
def Obligations.JpJumpsToTheLiteral : Prop :=
  ∀ (nnn : Addr12) (s : State), InRow 0xF000 0x1000 (.jp nnn) ∧
    Completes (exec (.jp nnn) s) (fun t => t.pc.toNat = nnn.toNat ∧ OnlyChanges (· ∈ [.pc]) s t)

/-- CALL: with room PC is pushed at slot SP, SP goes up by 1 and PC becomes the literal; on a full stack nothing changes
(41_flow.md R143). -/
def Obligations.CallPushesAndJumps : Prop :=
  ∀ (nnn : Addr12) (s : State), InRow 0xF000 0x2000 (.call nnn) ∧
    (∀ k : Fin 16, s.sp.toNat = k → Completes (exec (.call nnn) s) (fun t =>
      t.stack[k] = s.pc ∧ t.sp.toNat = k + 1 ∧ t.pc.toNat = nnn.toNat ∧ OnlyChanges (· ∈ [.slot k, .sp, .pc]) s t)) ∧
    (16 ≤ s.sp.toNat → exec (.call nnn) s = .next s)

/-- CALL then RET restores PC to the address after the CALL and SP to its value, and leaves only the stale slot changed
(41_flow.md R141, R143). -/
def Obligations.CallThenRetReturns : Prop :=
  ∀ (nnn : Addr12) (s : State) (k : Fin 16), s.sp.toNat = k →
    Completes (exec (.call nnn) s) (fun t => Completes (exec .ret t) (fun u =>
      u.pc = s.pc ∧ u.sp = s.sp ∧ u.stack[k] = s.pc ∧ OnlyChanges (· ∈ [.slot k]) s u))

/-- The four compare-and-skips: PC goes 2 further exactly when the comparison holds; with a low nibble other than 0 a
word of the group 0x5 or 0x9 is UNKNOWN (41_flow.md R144 to R147). -/
def Obligations.SkipsCompareAndStepOver : Prop :=
  ∀ (x y : Reg) (kk : Byte) (s : State),
    let skips (c : Prop) (t : State) : Prop :=
      (c → t.pc.toNat = (s.pc.toNat + 2) % 65536) ∧ (¬ c → t.pc = s.pc) ∧ OnlyChanges (· ∈ [.pc]) s t
    (∀ w : Word, fieldOp w = 0x5 ∨ fieldOp w = 0x9 → fieldN w ≠ 0 → decodeWord w = none) ∧
    InRow 0xF000 0x3000 (.seByte x kk) ∧ Completes (exec (.seByte x kk) s) (skips (s.reg x = kk)) ∧
    InRow 0xF000 0x4000 (.sneByte x kk) ∧ Completes (exec (.sneByte x kk) s) (skips (s.reg x ≠ kk)) ∧
    InRow 0xF00F 0x5000 (.seReg x y) ∧ Completes (exec (.seReg x y) s) (skips (s.reg x = s.reg y)) ∧
    InRow 0xF00F 0x9000 (.sneReg x y) ∧ Completes (exec (.sneReg x y) s) (skips (s.reg x ≠ s.reg y))

/-- JP V0,addr: PC becomes the unmasked sum of the literal and V0 (41_flow.md R148). -/
def Obligations.JpV0JumpsToTheSum : Prop :=
  ∀ (nnn : Addr12) (s : State), InRow 0xF000 0xB000 (.jpV0 nnn) ∧
    Completes (exec (.jpV0 nnn) s) (fun t => t.pc.toNat = (nnn.toNat + (s.reg 0).toNat) % 65536 ∧
      t.pc.toNat ≤ 0x10FE ∧ OnlyChanges (· ∈ [.pc]) s t)

/-! ### Loads and the ALU -/

/-- LD Vx,byte and LD Vx,Vy assign Vx and leave VF and everything else alone (42_load_alu.md R160, R162). -/
def Obligations.LoadsAssignVx : Prop :=
  ∀ (x y : Reg) (kk : Byte) (s : State),
    InRow 0xF000 0x6000 (.ldByte x kk) ∧
    Completes (exec (.ldByte x kk) s) (fun t => t.reg x = kk ∧ OnlyChanges (· ∈ [.reg x]) s t) ∧
    InRow 0xF00F 0x8000 (.ldReg x y) ∧
    Completes (exec (.ldReg x y) s) (fun t => t.reg x = s.reg y ∧ OnlyChanges (· ∈ [.reg x]) s t)

/-- ADD Vx,byte adds modulo 256 and leaves VF alone unless it is the destination (42_load_alu.md R161). -/
def Obligations.AddByteWrapsWithoutFlag : Prop :=
  ∀ (x : Reg) (kk : Byte) (s : State), InRow 0xF000 0x7000 (.addByte x kk) ∧
    Completes (exec (.addByte x kk) s) (fun t => (t.reg x).toNat = ((s.reg x).toNat + kk.toNat) % 256 ∧
      (x ≠ 15 → t.reg 15 = s.reg 15) ∧ OnlyChanges (· ∈ [.reg x]) s t)

/-- OR, AND and XOR combine Vx and Vy bit by bit and do not write VF as a flag (42_load_alu.md R163, R164, R165). -/
def Obligations.LogicActsBitByBit : Prop :=
  ∀ (x y : Reg) (s : State),
    let bitwise (f : Bool → Bool → Bool) (t : State) : Prop :=
      (∀ k < 8, (t.reg x).getLsbD k = f ((s.reg x).getLsbD k) ((s.reg y).getLsbD k)) ∧ OnlyChanges (· ∈ [.reg x]) s t
    InRow 0xF00F 0x8001 (.orReg x y) ∧ Completes (exec (.orReg x y) s) (bitwise or) ∧
    InRow 0xF00F 0x8002 (.andReg x y) ∧ Completes (exec (.andReg x y) s) (bitwise and) ∧
    InRow 0xF00F 0x8003 (.xorReg x y) ∧ Completes (exec (.xorReg x y) s) (bitwise xor)

/-- ADD Vx,Vy: Vx is the sum modulo 256 and VF the carry; with x = 15 the sum stands (42_load_alu.md R166). -/
def Obligations.AddSetsCarry : Prop :=
  ∀ (x y : Reg) (s : State), InRow 0xF00F 0x8004 (.addReg x y) ∧
    Completes (exec (.addReg x y) s) (fun t =>
      (t.reg x).toNat = ((s.reg x).toNat + (s.reg y).toNat) % 256 ∧
      (x ≠ 15 → t.reg 15 = if (s.reg x).toNat + (s.reg y).toNat > 255 then 1 else 0) ∧
      OnlyChanges (· ∈ [.reg x, .reg 15]) s t)

/-- SUB Vx,Vy: Vx is the difference modulo 256 and VF is 0 exactly on a borrow; with x = 15 the difference stands
(42_load_alu.md R167). -/
def Obligations.SubSetsNotBorrow : Prop :=
  ∀ (x y : Reg) (s : State), InRow 0xF00F 0x8005 (.subReg x y) ∧
    Completes (exec (.subReg x y) s) (fun t =>
      ((t.reg x).toNat : Int) = (((s.reg x).toNat : Int) - (s.reg y).toNat) % 256 ∧
      (x ≠ 15 → t.reg 15 = if (s.reg y).toNat > (s.reg x).toNat then 0 else 1) ∧
      OnlyChanges (· ∈ [.reg x, .reg 15]) s t)

/-- SUBN Vx,Vy: Vx is Vy - Vx modulo 256 and VF is 0 exactly when Vx > Vy; with x = 15 the difference stands
(42_load_alu.md R169). -/
def Obligations.SubnSetsNotBorrow : Prop :=
  ∀ (x y : Reg) (s : State), InRow 0xF00F 0x8007 (.subnReg x y) ∧
    Completes (exec (.subnReg x y) s) (fun t =>
      ((t.reg x).toNat : Int) = (((s.reg y).toNat : Int) - (s.reg x).toNat) % 256 ∧
      (x ≠ 15 → t.reg 15 = if (s.reg x).toNat > (s.reg y).toNat then 0 else 1) ∧
      OnlyChanges (· ∈ [.reg x, .reg 15]) s t)

/-- SHR and SHL: Vx is shifted by one with zero fill, VF is the bit shifted out, the y field is ignored; with x = 15 the
shifted value stands (42_load_alu.md R168, R170). -/
def Obligations.ShiftsCaptureTheBitShiftedOut : Prop :=
  ∀ (x y : Reg) (s : State),
    InRow 0xF00F 0x8006 (.shr x y) ∧
    Completes (exec (.shr x y) s) (fun t =>
      (t.reg x).toNat = (s.reg x).toNat / 2 ∧
      (x ≠ 15 → t.reg 15 = if (s.reg x).getLsbD 0 then 1 else 0) ∧ OnlyChanges (· ∈ [.reg x, .reg 15]) s t) ∧
    InRow 0xF00F 0x800E (.shl x y) ∧
    Completes (exec (.shl x y) s) (fun t =>
      (t.reg x).toNat = (s.reg x).toNat * 2 % 256 ∧
      (x ≠ 15 → t.reg 15 = if (s.reg x).getLsbD 7 then 1 else 0) ∧ OnlyChanges (· ∈ [.reg x, .reg 15]) s t)

/-- With VF as the destination the data result stands and the flag is lost; with VF as y and another destination Vx is
computed from the old VF and VF receives the flag (42_load_alu.md R173). -/
def Obligations.DataStandsWhenVFIsTheDestination : Prop :=
  ∀ (x y : Reg) (s : State),
    let f := (s.reg 15).toNat
    let v := (s.reg y).toNat
    (y ≠ 15 →
      Completes (exec (.addReg 15 y) s) (fun t => (t.reg 15).toNat = (f + v) % 256) ∧
      Completes (exec (.subReg 15 y) s) (fun t => ((t.reg 15).toNat : Int) = ((f : Int) - v) % 256) ∧
      Completes (exec (.subnReg 15 y) s) (fun t => ((t.reg 15).toNat : Int) = ((v : Int) - f) % 256)) ∧
    Completes (exec (.addReg 15 15) s) (fun t => (t.reg 15).toNat = 2 * f % 256) ∧
    Completes (exec (.subReg 15 15) s) (fun t => t.reg 15 = 0) ∧
    Completes (exec (.subnReg 15 15) s) (fun t => t.reg 15 = 0) ∧
    Completes (exec (.shr 15 y) s) (fun t => (t.reg 15).toNat = f / 2) ∧
    Completes (exec (.shl 15 y) s) (fun t => (t.reg 15).toNat = 2 * f % 256) ∧
    (x ≠ 15 →
      Completes (exec (.addReg x 15) s) (fun t => (t.reg x).toNat = ((s.reg x).toNat + f) % 256 ∧
        t.reg 15 = if (s.reg x).toNat + f > 255 then 1 else 0) ∧
      Completes (exec (.subReg x 15) s) (fun t => ((t.reg x).toNat : Int) = (((s.reg x).toNat : Int) - f) % 256 ∧
        t.reg 15 = if f > (s.reg x).toNat then 0 else 1) ∧
      Completes (exec (.subnReg x 15) s) (fun t => ((t.reg x).toNat : Int) = ((f : Int) - (s.reg x).toNat) % 256 ∧
        t.reg 15 = if (s.reg x).toNat > f then 0 else 1))

/-- RND: Vx is the free random byte of this cycle masked with the literal, so no bit outside the literal is set; the next
draw is the next free byte; VF is no flag (42_load_alu.md R171). The numbering of the bytes is the model's choice (log
entry 3). -/
def Obligations.RndMasksTheRandomByte : Prop :=
  ∀ (x : Reg) (kk : Byte) (s : State), InRow 0xF000 0xC000 (.rnd x kk) ∧
    Completes (exec (.rnd x kk) s) (fun t =>
      (∀ k < 8, (t.reg x).getLsbD k = ((Config.randomByte s.draws).getLsbD k && kk.getLsbD k)) ∧
      t.reg x &&& ~~~kk = 0 ∧ t.draws = s.draws + 1 ∧ OnlyChanges (· ∈ [.reg x, .draws]) s t)

/-! ### The address register and memory transfers -/

/-- LD I,addr: I is the zero-extended literal (43_index_memory.md R190). -/
def Obligations.LdILoadsTheLiteral : Prop :=
  ∀ (nnn : Addr12) (s : State), InRow 0xF000 0xA000 (.ldI nnn) ∧
    Completes (exec (.ldI nnn) s) (fun t => t.i.toNat = nnn.toNat ∧ OnlyChanges (· ∈ [.index]) s t)

/-- ADD I,Vx: I is the sum modulo 65536 and VF tests the stored result against 0x0FFF; with x = 15 the addend is the old
VF (43_index_memory.md R191). -/
def Obligations.AddIFlagsBeyondTwelveBits : Prop :=
  ∀ (x : Reg) (s : State), InRow 0xF0FF 0xF01E (.addIVx x) ∧
    Completes (exec (.addIVx x) s) (fun t =>
      t.i.toNat = (s.i.toNat + (s.reg x).toNat) % 65536 ∧
      t.reg 15 = (if (s.i.toNat + (s.reg x).toNat) % 65536 > 0x0FFF then 1 else 0) ∧
      OnlyChanges (· ∈ [.index, .reg 15]) s t)

/-- LD I,F(Vx): I is 5 times the low nibble of Vx (43_index_memory.md R192). -/
def Obligations.LdFPointsAtTheGlyph : Prop :=
  ∀ (x : Reg) (s : State), InRow 0xF0FF 0xF029 (.ldIF x) ∧
    Completes (exec (.ldIF x) s) (fun t => t.i.toNat = 5 * ((s.reg x).toNat % 16) ∧ OnlyChanges (· ∈ [.index]) s t)

/-- LD B,Vx: the three decimal digits at I, I+1, I+2 and no other byte changed when I <= 0xFFD; else the fault
WriteRange with nothing written (43_index_memory.md R193). -/
def Obligations.BcdStoresThreeDigits : Prop :=
  ∀ (x : Reg) (s : State), InRow 0xF0FF 0xF033 (.ldB x) ∧
    (s.i.toNat + 2 ≤ 0xFFF → Completes (exec (.ldB x) s) (fun t =>
      (t.byte s.i.toNat).toNat = (s.reg x).toNat / 100 ∧
      (t.byte (s.i.toNat + 1)).toNat = (s.reg x).toNat / 10 % 10 ∧
      (t.byte (s.i.toNat + 2)).toNat = (s.reg x).toNat % 10 ∧
      OnlyChanges (Item.inRun s.i.toNat 3) s t)) ∧
    (0xFFF < s.i.toNat + 2 →
      Completes (exec (.ldB x) s) (FaultedFrom s .writeRange (max s.i.toNat 0x1000)))

/-- LD [I],Vx: V[j] at I + j for j = 0 .. x, no other byte changed, I unchanged; the fault WriteRange with nothing
written when I + x > 0xFFF (43_index_memory.md R194). -/
def Obligations.StoreRegsCopiesToMemory : Prop :=
  ∀ (x : Reg) (s : State), InRow 0xF0FF 0xF055 (.storeRegs x) ∧
    (s.i.toNat + x ≤ 0xFFF → Completes (exec (.storeRegs x) s) (fun t =>
      (∀ j : Reg, j ≤ x → t.byte (s.i.toNat + j) = s.reg j) ∧ t.i = s.i ∧
      OnlyChanges (Item.inRun s.i.toNat (x + 1)) s t)) ∧
    (0xFFF < s.i.toNat + x →
      Completes (exec (.storeRegs x) s) (FaultedFrom s .writeRange (max s.i.toNat 0x1000)))

/-- LD Vx,[I]: the byte at I + j in V[j] for j = 0 .. x, the higher registers and I unchanged; the fault ReadRange with no
register written when I + x > 0xFFF (43_index_memory.md R195). -/
def Obligations.LoadRegsCopiesFromMemory : Prop :=
  ∀ (x : Reg) (s : State), InRow 0xF0FF 0xF065 (.loadRegs x) ∧
    (s.i.toNat + x ≤ 0xFFF → Completes (exec (.loadRegs x) s) (fun t =>
      (∀ j : Reg, j ≤ x → t.reg j = s.byte (s.i.toNat + j)) ∧ t.i = s.i ∧
      OnlyChanges (fun it => ∃ j : Reg, it = .reg j ∧ j ≤ x) s t)) ∧
    (0xFFF < s.i.toNat + x →
      Completes (exec (.loadRegs x) s) (FaultedFrom s .readRange (max s.i.toNat 0x1000)))

/-- LD [I],Vx, then any change of the V registers, then LD Vx,[I] with I unchanged gives V0..Vx back
(43_index_memory.md R195, the round-trip property). -/
def Obligations.StoreThenLoadRestoresRegisters : Prop :=
  ∀ (x : Reg) (s : State) (v : Vector Byte 16), s.i.toNat + x ≤ 0xFFF →
    Completes (exec (.storeRegs x) s) (fun t => Completes (exec (.loadRegs x) { t with v := v }) (fun u =>
      (∀ j : Reg, j ≤ x → u.reg j = s.reg j) ∧ ∀ j : Reg, x < j → u.reg j = v[j]))

/-- Self-modifying code: when LD [I],Vx stores over the two bytes of the next instruction, the next fetch reads the two
stored registers, the lower one as the high byte (20_memory.md R75). -/
def Obligations.StoreIsSeenByTheNextFetch : Prop :=
  ∀ (x : Reg) (s : State) (j k : Reg), k.val = j.val + 1 → k ≤ x → s.i.toNat + x ≤ 0xFFF → s.pc.toNat = s.i.toNat + j →
    Completes (exec (.storeRegs x) s) (fun t =>
      ∃ w : Word, t.fetchWord = some w ∧ w.toNat = (s.reg j).toNat * 256 + (s.reg k).toNat)

/-! ### Display -/

/-- CLS: every cell off, the `redraw` strobe emitted, nothing else changed (44_display.md R210). The
list that records the strobe is the model's choice (log entry 5). -/
def Obligations.ClsBlanksTheDisplay : Prop :=
  InRow 0xF0FF 0x00E0 .cls ∧ (∀ w : Word, w &&& 0xF0FF = 0x00E0 → decodeWord w = some .cls) ∧
  ∀ s : State, Completes (exec .cls s) (fun t =>
    (∀ (r : Fin 32) (c : Fin 64), Display.pixel t.disp r c = false) ∧ t.trace = .redraw :: s.trace ∧
    OnlyChanges (fun it => it.isCell ∨ it = .trace) s t)

/-- DRW: each cell of the grid is XORed with the sprite's bit there (start coordinate taken modulo 64 and 32, the body
clipped, bit 7 leftmost), VF is 1 exactly when a covered cell was on, nothing else changes; the fault ReadRange with
nothing changed when a sprite byte is above 0xFFF, and n = 0 draws nothing and never faults (44_display.md R211). -/
def Obligations.DrwXorsTheSprite : Prop :=
  ∀ (x y : Reg) (n : Fin 16) (s : State), InRow 0xF000 0xD000 (.drw x y n) ∧
    let covers (r : Fin 32) (c : Fin 64) : Prop :=
      (s.reg y).toNat % 32 ≤ r ∧ r < (s.reg y).toNat % 32 + n ∧
      (s.reg x).toNat % 64 ≤ c ∧ c < (s.reg x).toNat % 64 + 8 ∧
      (s.byte (s.i.toNat + (r - (s.reg y).toNat % 32))).getLsbD (7 - (c - (s.reg x).toNat % 64)) = true
    (n = 0 ∨ s.i.toNat + n ≤ 0x1000 → Completes (exec (.drw x y n) s) (fun t =>
      (∀ (r : Fin 32) (c : Fin 64),
        (covers r c → Display.pixel t.disp r c = !Display.pixel s.disp r c) ∧
        (¬ covers r c → Display.pixel t.disp r c = Display.pixel s.disp r c)) ∧
      ((∃ r c, covers r c ∧ Display.pixel s.disp r c = true) → t.reg 15 = 1) ∧
      ((¬ ∃ r c, covers r c ∧ Display.pixel s.disp r c = true) → t.reg 15 = 0) ∧
      OnlyChanges (fun it => it.isCell ∨ it = .reg 15) s t)) ∧
    (n ≠ 0 → 0x1000 < s.i.toNat + n →
      Completes (exec (.drw x y n) s) (FaultedFrom s .readRange (max s.i.toNat 0x1000)))

/-- Drawing the same sprite at the same position twice restores the display, and the second VF is 1 exactly when the
first draw turned at least one cell on (44_display.md R211, XOR idempotence). -/
def Obligations.DrawingTwiceRestoresTheDisplay : Prop :=
  ∀ (x y : Reg) (n : Fin 16) (s t : State), n = 0 ∨ s.i.toNat + n ≤ 0x1000 → exec (.drw x y n) s = .next t →
    (t.reg x).toNat % 64 = (s.reg x).toNat % 64 → (t.reg y).toNat % 32 = (s.reg y).toNat % 32 →
    Completes (exec (.drw x y n) t) (fun u =>
      (∀ (r : Fin 32) (c : Fin 64), Display.pixel u.disp r c = Display.pixel s.disp r c) ∧
      (u.reg 15 = 1 ↔ ∃ (r : Fin 32) (c : Fin 64),
        Display.pixel s.disp r c = false ∧ Display.pixel t.disp r c = true))

/-! ### Keys and timers -/

/-- SKP and SKNP: skip by the held bit of the key Vx names; the fault KeyIndex(Vx) when Vx > 0x0F
(45_keys_timers.md R230, R231). -/
def Obligations.KeySkipsReadHeld : Prop :=
  ∀ (x : Reg) (s : State),
    let skips (c : Prop) (t : State) : Prop :=
      (c → t.pc.toNat = (s.pc.toNat + 2) % 65536) ∧ (¬ c → t.pc = s.pc) ∧ OnlyChanges (· ∈ [.pc]) s t
    InRow 0xF0FF 0xE09E (.skp x) ∧ InRow 0xF0FF 0xE0A1 (.sknp x) ∧
    ((s.reg x).toNat ≤ 15 →
      Completes (exec (.skp x) s) (skips (s.held.getLsbD (s.reg x).toNat = true)) ∧
      Completes (exec (.sknp x) s) (skips (s.held.getLsbD (s.reg x).toNat = false))) ∧
    (15 < (s.reg x).toNat →
      Completes (exec (.skp x) s) (FaultedFrom s .keyIndex (s.reg x).toNat) ∧
      Completes (exec (.sknp x) s) (FaultedFrom s .keyIndex (s.reg x).toNat))

/-- LD Vx,K: the least newly released key goes to Vx; with none PC goes back to this instruction and nothing else
changes (45_keys_timers.md R232). -/
def Obligations.KeyWaitTakesTheLeastReleasedKey : Prop :=
  ∀ (x : Reg) (s : State), InRow 0xF0FF 0xF00A (.ldVxK x) ∧
    (∀ k < 16, s.rel.getLsbD k = true → (∀ j < k, s.rel.getLsbD j = false) →
      Completes (exec (.ldVxK x) s) (fun t => (t.reg x).toNat = k ∧ OnlyChanges (· ∈ [.reg x]) s t)) ∧
    ((∀ k < 16, s.rel.getLsbD k = false) →
      Completes (exec (.ldVxK x) s) (fun t => t.pc = s.pc - 2 ∧ OnlyChanges (· ∈ [.pc]) s t))

/-- While no key is newly released, a machine at LD Vx,K spends every cycle of the period on it with no change of state
but the scheduler's count, which is the model's choice (log entry 2) (45_keys_timers.md R232, 70_reset_and_hazards.md
R299). -/
def Obligations.KeyWaitSpendsThePeriod : Prop :=
  ∀ (k : Nat) (x : Reg) (s : State) (w : Word), s.running → s.fetchWord = some w → decodeWord w = some (.ldVxK x) →
    s.rel = 0 → k ≤ s.cyclesLeft →
    Sys2Proof.core.run k s = .next (s.setCyclesLeft (s.cyclesLeft - k))

/-- LD Vx,DT, LD DT,Vx and LD ST,Vx move one byte between Vx and a timer (45_keys_timers.md R233, R234, R235). -/
def Obligations.TimerTransfersMoveOneByte : Prop :=
  ∀ (x : Reg) (s : State),
    InRow 0xF0FF 0xF007 (.ldVxDT x) ∧
    Completes (exec (.ldVxDT x) s) (fun t => t.reg x = s.dt ∧ OnlyChanges (· ∈ [.reg x]) s t) ∧
    InRow 0xF0FF 0xF015 (.ldDTVx x) ∧
    Completes (exec (.ldDTVx x) s) (fun t => t.dt = s.reg x ∧ OnlyChanges (· ∈ [.dt]) s t) ∧
    InRow 0xF0FF 0xF018 (.ldSTVx x) ∧
    Completes (exec (.ldSTVx x) s) (fun t => t.st = s.reg x ∧ OnlyChanges (· ∈ [.st]) s t)
end

