-- ==== Sys2Proof/Laws/Encoding.lean ====
section
/-!
SUPPORT. The bits and the fields of a word built by each format (30_encoding.md R91, R92), and the decoder on the bytes
of a word.
-/

namespace Sys2Proof

@[simp] theorem regField_toFin (r : Fin 16) : (regField r).toFin = r := rfl

/-! ### Bits -/

theorem getLsbD_encodeNNN (op : BitVec 4) (nnn : Addr12) (i : Nat) :
    (encodeNNN op nnn).getLsbD i = if i < 12 then nnn.getLsbD i else op.getLsbD (i - 12) :=
  BitVec.getLsbD_append

theorem getLsbD_pair (a b : BitVec 4) (i : Nat) :
    (a ++ b : BitVec 8).getLsbD i = if i < 4 then b.getLsbD i else a.getLsbD (i - 4) :=
  BitVec.getLsbD_append

theorem getLsbD_bytes (a b : Byte) (i : Nat) :
    (a ++ b : Word).getLsbD i = if i < 8 then b.getLsbD i else a.getLsbD (i - 8) :=
  BitVec.getLsbD_append

theorem getLsbD_encodeXKK (op : BitVec 4) (x : Reg) (kk : Byte) (i : Nat) :
    (encodeXKK op x kk).getLsbD i =
      if i < 8 then kk.getLsbD i
      else if i - 8 < 4 then (regField x).getLsbD (i - 8) else op.getLsbD (i - 8 - 4) := by
  rw [← getLsbD_pair]
  exact getLsbD_bytes _ _ _

theorem getLsbD_encodeXYN (op : BitVec 4) (x y : Reg) (n : BitVec 4) (i : Nat) :
    (encodeXYN op x y n).getLsbD i =
      if i < 8 then (if i < 4 then n.getLsbD i else (regField y).getLsbD (i - 4))
      else if i - 8 < 4 then (regField x).getLsbD (i - 8) else op.getLsbD (i - 8 - 4) := by
  rw [← getLsbD_pair, ← getLsbD_pair]
  exact getLsbD_bytes _ _ _

/-- Two fields of the same bits are equal: `bits` is how a field of `len` bits at `start` is read off a word. -/
theorem extract_eq {len : Nat} (w : Word) (start : Nat) (f : BitVec len)
    (h : ∀ i, i < len → w.getLsbD (start + i) = f.getLsbD i) : w.extractLsb' start len = f := by
  apply BitVec.eq_of_getLsbD_eq
  intro i hi
  rw [BitVec.getLsbD_extractLsb', h i hi]
  simp [hi]

/-! ### Fields -/

@[simp] theorem fieldOp_encodeNNN (op : BitVec 4) (nnn : Addr12) : fieldOp (encodeNNN op nnn) = op :=
  extract_eq _ _ _ fun i _ => by simp [getLsbD_encodeNNN]

@[simp] theorem fieldNNN_encodeNNN (op : BitVec 4) (nnn : Addr12) : fieldNNN (encodeNNN op nnn) = nnn :=
  extract_eq _ _ _ fun i hi => by simp [getLsbD_encodeNNN, hi]

@[simp] theorem fieldOp_encodeXKK (op : BitVec 4) (x : Reg) (kk : Byte) : fieldOp (encodeXKK op x kk) = op :=
  extract_eq _ _ _ fun i _ => by
    rw [getLsbD_encodeXKK, if_neg (by omega), if_neg (by omega)]; congr 1; omega

@[simp] theorem fieldX_encodeXKK (op : BitVec 4) (x : Reg) (kk : Byte) : fieldX (encodeXKK op x kk) = x := by
  have h : (encodeXKK op x kk).extractLsb' 8 4 = regField x := extract_eq _ _ _ fun i hi => by
    rw [getLsbD_encodeXKK, if_neg (by omega), if_pos (by omega)]; congr 1; omega
  simp only [fieldX, h, regField_toFin]

@[simp] theorem fieldKK_encodeXKK (op : BitVec 4) (x : Reg) (kk : Byte) : fieldKK (encodeXKK op x kk) = kk :=
  extract_eq _ _ _ fun i hi => by rw [getLsbD_encodeXKK, if_pos (by omega)]; congr 1; omega

@[simp] theorem fieldOp_encodeXYN (op : BitVec 4) (x y : Reg) (n : BitVec 4) :
    fieldOp (encodeXYN op x y n) = op :=
  extract_eq _ _ _ fun i _ => by
    rw [getLsbD_encodeXYN, if_neg (by omega), if_neg (by omega)]; congr 1; omega

@[simp] theorem fieldX_encodeXYN (op : BitVec 4) (x y : Reg) (n : BitVec 4) :
    fieldX (encodeXYN op x y n) = x := by
  have h : (encodeXYN op x y n).extractLsb' 8 4 = regField x := extract_eq _ _ _ fun i hi => by
    rw [getLsbD_encodeXYN, if_neg (by omega), if_pos (by omega)]; congr 1; omega
  simp only [fieldX, h, regField_toFin]

@[simp] theorem fieldY_encodeXYN (op : BitVec 4) (x y : Reg) (n : BitVec 4) :
    fieldY (encodeXYN op x y n) = y := by
  have h : (encodeXYN op x y n).extractLsb' 4 4 = regField y := extract_eq _ _ _ fun i hi => by
    rw [getLsbD_encodeXYN, if_pos (by omega), if_neg (by omega)]; congr 1; omega
  simp only [fieldY, h, regField_toFin]

@[simp] theorem fieldN_encodeXYN (op : BitVec 4) (x y : Reg) (n : BitVec 4) :
    fieldN (encodeXYN op x y n) = n :=
  extract_eq _ _ _ fun i hi => by
    rw [getLsbD_encodeXYN, if_pos (by omega), if_pos (by omega)]; congr 1; omega

/-! ### Masks: what each mask of 30_encoding.md R96 keeps of a word -/

theorem and_maskF000 (w : Word) : w &&& 0xF000 = encodeNNN (fieldOp w) 0 := by
  have hm : ∀ j < 16, (0xF000 : Word).getLsbD j = decide (12 ≤ j) := by decide
  apply BitVec.eq_of_getLsbD_eq
  intro i hi
  rw [getLsbD_encodeNNN, BitVec.getLsbD_and, hm i hi]
  by_cases h : i < 12
  · simp [h, show ¬ 12 ≤ i by omega]
  · simp [h, fieldOp, show 12 ≤ i by omega, show i - 12 < 4 by omega, show 12 + (i - 12) = i by omega]

theorem and_maskF0FF (w : Word) : w &&& 0xF0FF = encodeXKK (fieldOp w) 0 (fieldKK w) := by
  have hm : ∀ j < 16, (0xF0FF : Word).getLsbD j = (decide (12 ≤ j) || decide (j < 8)) := by decide
  apply BitVec.eq_of_getLsbD_eq
  intro i hi
  rw [getLsbD_encodeXKK, BitVec.getLsbD_and, hm i hi]
  by_cases h : i < 8
  · simp [h, fieldKK]
  · by_cases h' : i < 12
    · simp [h, regField, show ¬ 12 ≤ i by omega, show i - 8 < 4 by omega]
    · simp [h, fieldOp, show 12 ≤ i by omega, show ¬ i - 8 < 4 by omega, show i - 8 - 4 < 4 by omega,
        show 12 + (i - 8 - 4) = i by omega]

theorem and_maskF00F (w : Word) : w &&& 0xF00F = encodeXYN (fieldOp w) 0 0 (fieldN w) := by
  have hm : ∀ j < 16, (0xF00F : Word).getLsbD j = (decide (12 ≤ j) || decide (j < 4)) := by decide
  apply BitVec.eq_of_getLsbD_eq
  intro i hi
  rw [getLsbD_encodeXYN, BitVec.getLsbD_and, hm i hi]
  by_cases h : i < 8
  · by_cases h' : i < 4
    · simp [h, h', fieldN]
    · simp [h, h', regField, show ¬ 12 ≤ i by omega]
  · by_cases h' : i < 12
    · simp [h, regField, show ¬ 12 ≤ i by omega, show i - 8 < 4 by omega, show ¬ i < 4 by omega]
    · simp [h, fieldOp, show 12 ≤ i by omega, show ¬ i - 8 < 4 by omega, show i - 8 - 4 < 4 by omega,
        show 12 + (i - 8 - 4) = i by omega]

/-! ### Bytes -/

/-- The two bytes of a word make that word again (20_memory.md R68). -/
theorem wordOfBytes_split (w : Word) : wordOfBytes (w.extractLsb' 8 8) (w.extractLsb' 0 8) = w := by
  apply BitVec.eq_of_getLsbD_eq
  intro i hi
  have h : (wordOfBytes (w.extractLsb' 8 8) (w.extractLsb' 0 8)).getLsbD i =
      if i < 8 then (w.extractLsb' 0 8).getLsbD i else (w.extractLsb' 8 8).getLsbD (i - 8) := BitVec.getLsbD_append
  rw [h]
  by_cases h8 : i < 8
  · simp [h8]
  · have e : 8 + (i - 8) = i := by omega
    simp [h8, e, show i - 8 < 8 by omega]

/-- The decoder on the bytes of a word is the decode procedure on the word. -/
theorem decode_bytesOfWord (w : Word) (i : Instr) :
    decode (bytesOfWord w) = .ok (i, []) ↔ decodeWord w = some i := by
  simp only [bytesOfWord, decode, wordOfBytes_split]
  cases h : decodeWord w <;> simp

end Sys2Proof
end

