-- ==== Sys2Proof/Laws/State.lean ====
section
/-!
SUPPORT. For each update of the state, each field after it: all true by unfolding. A field no update names is the old
one.
-/

namespace Sys2Proof.Machine

variable (s : State)

/-! ### setReg -/

@[simp] theorem State.setReg_v (r : Reg) (b : Byte) : (s.setReg r b).v = s.v.set r b := rfl
@[simp] theorem State.setReg_i (r : Reg) (b : Byte) : (s.setReg r b).i = s.i := rfl
@[simp] theorem State.setReg_pc (r : Reg) (b : Byte) : (s.setReg r b).pc = s.pc := rfl
@[simp] theorem State.setReg_sp (r : Reg) (b : Byte) : (s.setReg r b).sp = s.sp := rfl
@[simp] theorem State.setReg_stack (r : Reg) (b : Byte) : (s.setReg r b).stack = s.stack := rfl
@[simp] theorem State.setReg_dt (r : Reg) (b : Byte) : (s.setReg r b).dt = s.dt := rfl
@[simp] theorem State.setReg_st (r : Reg) (b : Byte) : (s.setReg r b).st = s.st := rfl
@[simp] theorem State.setReg_held (r : Reg) (b : Byte) : (s.setReg r b).held = s.held := rfl
@[simp] theorem State.setReg_rel (r : Reg) (b : Byte) : (s.setReg r b).rel = s.rel := rfl
@[simp] theorem State.setReg_disp (r : Reg) (b : Byte) : (s.setReg r b).disp = s.disp := rfl
@[simp] theorem State.setReg_mem (r : Reg) (b : Byte) : (s.setReg r b).mem = s.mem := rfl
@[simp] theorem State.setReg_fault (r : Reg) (b : Byte) : (s.setReg r b).fault = s.fault := rfl
@[simp] theorem State.setReg_cyclesLeft (r : Reg) (b : Byte) : (s.setReg r b).cyclesLeft = s.cyclesLeft := rfl
@[simp] theorem State.setReg_ticks (r : Reg) (b : Byte) : (s.setReg r b).ticks = s.ticks := rfl
@[simp] theorem State.setReg_draws (r : Reg) (b : Byte) : (s.setReg r b).draws = s.draws := rfl
@[simp] theorem State.setReg_trace (r : Reg) (b : Byte) : (s.setReg r b).trace = s.trace := rfl
@[simp] theorem State.setReg_byte (r : Reg) (b : Byte) (q : Nat) : (s.setReg r b).byte q = s.byte q := rfl

/-! ### setRegs -/

@[simp] theorem State.setRegs_v (bs : List Byte) : (s.setRegs bs).v = s.v.mapIdx (fun j old => bs.getD j old) := rfl
@[simp] theorem State.setRegs_i (bs : List Byte) : (s.setRegs bs).i = s.i := rfl
@[simp] theorem State.setRegs_pc (bs : List Byte) : (s.setRegs bs).pc = s.pc := rfl
@[simp] theorem State.setRegs_sp (bs : List Byte) : (s.setRegs bs).sp = s.sp := rfl
@[simp] theorem State.setRegs_stack (bs : List Byte) : (s.setRegs bs).stack = s.stack := rfl
@[simp] theorem State.setRegs_dt (bs : List Byte) : (s.setRegs bs).dt = s.dt := rfl
@[simp] theorem State.setRegs_st (bs : List Byte) : (s.setRegs bs).st = s.st := rfl
@[simp] theorem State.setRegs_held (bs : List Byte) : (s.setRegs bs).held = s.held := rfl
@[simp] theorem State.setRegs_rel (bs : List Byte) : (s.setRegs bs).rel = s.rel := rfl
@[simp] theorem State.setRegs_disp (bs : List Byte) : (s.setRegs bs).disp = s.disp := rfl
@[simp] theorem State.setRegs_mem (bs : List Byte) : (s.setRegs bs).mem = s.mem := rfl
@[simp] theorem State.setRegs_fault (bs : List Byte) : (s.setRegs bs).fault = s.fault := rfl
@[simp] theorem State.setRegs_cyclesLeft (bs : List Byte) : (s.setRegs bs).cyclesLeft = s.cyclesLeft := rfl
@[simp] theorem State.setRegs_ticks (bs : List Byte) : (s.setRegs bs).ticks = s.ticks := rfl
@[simp] theorem State.setRegs_draws (bs : List Byte) : (s.setRegs bs).draws = s.draws := rfl
@[simp] theorem State.setRegs_trace (bs : List Byte) : (s.setRegs bs).trace = s.trace := rfl
@[simp] theorem State.setRegs_byte (bs : List Byte) (q : Nat) : (s.setRegs bs).byte q = s.byte q := rfl

/-! ### setI -/

@[simp] theorem State.setI_v (a : Word) : (s.setI a).v = s.v := rfl
@[simp] theorem State.setI_i (a : Word) : (s.setI a).i = a := rfl
@[simp] theorem State.setI_pc (a : Word) : (s.setI a).pc = s.pc := rfl
@[simp] theorem State.setI_sp (a : Word) : (s.setI a).sp = s.sp := rfl
@[simp] theorem State.setI_stack (a : Word) : (s.setI a).stack = s.stack := rfl
@[simp] theorem State.setI_dt (a : Word) : (s.setI a).dt = s.dt := rfl
@[simp] theorem State.setI_st (a : Word) : (s.setI a).st = s.st := rfl
@[simp] theorem State.setI_held (a : Word) : (s.setI a).held = s.held := rfl
@[simp] theorem State.setI_rel (a : Word) : (s.setI a).rel = s.rel := rfl
@[simp] theorem State.setI_disp (a : Word) : (s.setI a).disp = s.disp := rfl
@[simp] theorem State.setI_mem (a : Word) : (s.setI a).mem = s.mem := rfl
@[simp] theorem State.setI_fault (a : Word) : (s.setI a).fault = s.fault := rfl
@[simp] theorem State.setI_cyclesLeft (a : Word) : (s.setI a).cyclesLeft = s.cyclesLeft := rfl
@[simp] theorem State.setI_ticks (a : Word) : (s.setI a).ticks = s.ticks := rfl
@[simp] theorem State.setI_draws (a : Word) : (s.setI a).draws = s.draws := rfl
@[simp] theorem State.setI_trace (a : Word) : (s.setI a).trace = s.trace := rfl
@[simp] theorem State.setI_reg (a : Word) (q : Reg) : (s.setI a).reg q = s.reg q := rfl
@[simp] theorem State.setI_byte (a : Word) (q : Nat) : (s.setI a).byte q = s.byte q := rfl

/-! ### setPC -/

@[simp] theorem State.setPC_v (a : Word) : (s.setPC a).v = s.v := rfl
@[simp] theorem State.setPC_i (a : Word) : (s.setPC a).i = s.i := rfl
@[simp] theorem State.setPC_pc (a : Word) : (s.setPC a).pc = a := rfl
@[simp] theorem State.setPC_sp (a : Word) : (s.setPC a).sp = s.sp := rfl
@[simp] theorem State.setPC_stack (a : Word) : (s.setPC a).stack = s.stack := rfl
@[simp] theorem State.setPC_dt (a : Word) : (s.setPC a).dt = s.dt := rfl
@[simp] theorem State.setPC_st (a : Word) : (s.setPC a).st = s.st := rfl
@[simp] theorem State.setPC_held (a : Word) : (s.setPC a).held = s.held := rfl
@[simp] theorem State.setPC_rel (a : Word) : (s.setPC a).rel = s.rel := rfl
@[simp] theorem State.setPC_disp (a : Word) : (s.setPC a).disp = s.disp := rfl
@[simp] theorem State.setPC_mem (a : Word) : (s.setPC a).mem = s.mem := rfl
@[simp] theorem State.setPC_fault (a : Word) : (s.setPC a).fault = s.fault := rfl
@[simp] theorem State.setPC_cyclesLeft (a : Word) : (s.setPC a).cyclesLeft = s.cyclesLeft := rfl
@[simp] theorem State.setPC_ticks (a : Word) : (s.setPC a).ticks = s.ticks := rfl
@[simp] theorem State.setPC_draws (a : Word) : (s.setPC a).draws = s.draws := rfl
@[simp] theorem State.setPC_trace (a : Word) : (s.setPC a).trace = s.trace := rfl
@[simp] theorem State.setPC_reg (a : Word) (q : Reg) : (s.setPC a).reg q = s.reg q := rfl
@[simp] theorem State.setPC_byte (a : Word) (q : Nat) : (s.setPC a).byte q = s.byte q := rfl

/-! ### advance -/

@[simp] theorem State.advance_v : (s.advance).v = s.v := rfl
@[simp] theorem State.advance_i : (s.advance).i = s.i := rfl
@[simp] theorem State.advance_pc : (s.advance).pc = s.pc + 2 := rfl
@[simp] theorem State.advance_sp : (s.advance).sp = s.sp := rfl
@[simp] theorem State.advance_stack : (s.advance).stack = s.stack := rfl
@[simp] theorem State.advance_dt : (s.advance).dt = s.dt := rfl
@[simp] theorem State.advance_st : (s.advance).st = s.st := rfl
@[simp] theorem State.advance_held : (s.advance).held = s.held := rfl
@[simp] theorem State.advance_rel : (s.advance).rel = s.rel := rfl
@[simp] theorem State.advance_disp : (s.advance).disp = s.disp := rfl
@[simp] theorem State.advance_mem : (s.advance).mem = s.mem := rfl
@[simp] theorem State.advance_fault : (s.advance).fault = s.fault := rfl
@[simp] theorem State.advance_cyclesLeft : (s.advance).cyclesLeft = s.cyclesLeft := rfl
@[simp] theorem State.advance_ticks : (s.advance).ticks = s.ticks := rfl
@[simp] theorem State.advance_draws : (s.advance).draws = s.draws := rfl
@[simp] theorem State.advance_trace : (s.advance).trace = s.trace := rfl
@[simp] theorem State.advance_reg (q : Reg) : (s.advance).reg q = s.reg q := rfl
@[simp] theorem State.advance_byte (q : Nat) : (s.advance).byte q = s.byte q := rfl

/-! ### rewind -/

@[simp] theorem State.rewind_v : (s.rewind).v = s.v := rfl
@[simp] theorem State.rewind_i : (s.rewind).i = s.i := rfl
@[simp] theorem State.rewind_pc : (s.rewind).pc = s.pc - 2 := rfl
@[simp] theorem State.rewind_sp : (s.rewind).sp = s.sp := rfl
@[simp] theorem State.rewind_stack : (s.rewind).stack = s.stack := rfl
@[simp] theorem State.rewind_dt : (s.rewind).dt = s.dt := rfl
@[simp] theorem State.rewind_st : (s.rewind).st = s.st := rfl
@[simp] theorem State.rewind_held : (s.rewind).held = s.held := rfl
@[simp] theorem State.rewind_rel : (s.rewind).rel = s.rel := rfl
@[simp] theorem State.rewind_disp : (s.rewind).disp = s.disp := rfl
@[simp] theorem State.rewind_mem : (s.rewind).mem = s.mem := rfl
@[simp] theorem State.rewind_fault : (s.rewind).fault = s.fault := rfl
@[simp] theorem State.rewind_cyclesLeft : (s.rewind).cyclesLeft = s.cyclesLeft := rfl
@[simp] theorem State.rewind_ticks : (s.rewind).ticks = s.ticks := rfl
@[simp] theorem State.rewind_draws : (s.rewind).draws = s.draws := rfl
@[simp] theorem State.rewind_trace : (s.rewind).trace = s.trace := rfl
@[simp] theorem State.rewind_reg (q : Reg) : (s.rewind).reg q = s.reg q := rfl
@[simp] theorem State.rewind_byte (q : Nat) : (s.rewind).byte q = s.byte q := rfl

/-! ### setDT -/

@[simp] theorem State.setDT_v (b : Byte) : (s.setDT b).v = s.v := rfl
@[simp] theorem State.setDT_i (b : Byte) : (s.setDT b).i = s.i := rfl
@[simp] theorem State.setDT_pc (b : Byte) : (s.setDT b).pc = s.pc := rfl
@[simp] theorem State.setDT_sp (b : Byte) : (s.setDT b).sp = s.sp := rfl
@[simp] theorem State.setDT_stack (b : Byte) : (s.setDT b).stack = s.stack := rfl
@[simp] theorem State.setDT_dt (b : Byte) : (s.setDT b).dt = b := rfl
@[simp] theorem State.setDT_st (b : Byte) : (s.setDT b).st = s.st := rfl
@[simp] theorem State.setDT_held (b : Byte) : (s.setDT b).held = s.held := rfl
@[simp] theorem State.setDT_rel (b : Byte) : (s.setDT b).rel = s.rel := rfl
@[simp] theorem State.setDT_disp (b : Byte) : (s.setDT b).disp = s.disp := rfl
@[simp] theorem State.setDT_mem (b : Byte) : (s.setDT b).mem = s.mem := rfl
@[simp] theorem State.setDT_fault (b : Byte) : (s.setDT b).fault = s.fault := rfl
@[simp] theorem State.setDT_cyclesLeft (b : Byte) : (s.setDT b).cyclesLeft = s.cyclesLeft := rfl
@[simp] theorem State.setDT_ticks (b : Byte) : (s.setDT b).ticks = s.ticks := rfl
@[simp] theorem State.setDT_draws (b : Byte) : (s.setDT b).draws = s.draws := rfl
@[simp] theorem State.setDT_trace (b : Byte) : (s.setDT b).trace = s.trace := rfl
@[simp] theorem State.setDT_reg (b : Byte) (q : Reg) : (s.setDT b).reg q = s.reg q := rfl
@[simp] theorem State.setDT_byte (b : Byte) (q : Nat) : (s.setDT b).byte q = s.byte q := rfl

/-! ### setST -/

@[simp] theorem State.setST_v (b : Byte) : (s.setST b).v = s.v := rfl
@[simp] theorem State.setST_i (b : Byte) : (s.setST b).i = s.i := rfl
@[simp] theorem State.setST_pc (b : Byte) : (s.setST b).pc = s.pc := rfl
@[simp] theorem State.setST_sp (b : Byte) : (s.setST b).sp = s.sp := rfl
@[simp] theorem State.setST_stack (b : Byte) : (s.setST b).stack = s.stack := rfl
@[simp] theorem State.setST_dt (b : Byte) : (s.setST b).dt = s.dt := rfl
@[simp] theorem State.setST_st (b : Byte) : (s.setST b).st = b := rfl
@[simp] theorem State.setST_held (b : Byte) : (s.setST b).held = s.held := rfl
@[simp] theorem State.setST_rel (b : Byte) : (s.setST b).rel = s.rel := rfl
@[simp] theorem State.setST_disp (b : Byte) : (s.setST b).disp = s.disp := rfl
@[simp] theorem State.setST_mem (b : Byte) : (s.setST b).mem = s.mem := rfl
@[simp] theorem State.setST_fault (b : Byte) : (s.setST b).fault = s.fault := rfl
@[simp] theorem State.setST_cyclesLeft (b : Byte) : (s.setST b).cyclesLeft = s.cyclesLeft := rfl
@[simp] theorem State.setST_ticks (b : Byte) : (s.setST b).ticks = s.ticks := rfl
@[simp] theorem State.setST_draws (b : Byte) : (s.setST b).draws = s.draws := rfl
@[simp] theorem State.setST_trace (b : Byte) : (s.setST b).trace = s.trace := rfl
@[simp] theorem State.setST_reg (b : Byte) (q : Reg) : (s.setST b).reg q = s.reg q := rfl
@[simp] theorem State.setST_byte (b : Byte) (q : Nat) : (s.setST b).byte q = s.byte q := rfl

/-! ### push -/

@[simp] theorem State.push_v (a : Word) (h : s.sp.toNat < 16) : (s.push a h).v = s.v := rfl
@[simp] theorem State.push_i (a : Word) (h : s.sp.toNat < 16) : (s.push a h).i = s.i := rfl
@[simp] theorem State.push_pc (a : Word) (h : s.sp.toNat < 16) : (s.push a h).pc = s.pc := rfl
@[simp] theorem State.push_sp (a : Word) (h : s.sp.toNat < 16) : (s.push a h).sp = s.sp + 1 := rfl
@[simp] theorem State.push_stack (a : Word) (h : s.sp.toNat < 16) : (s.push a h).stack = s.stack.set s.sp.toNat a := rfl
@[simp] theorem State.push_dt (a : Word) (h : s.sp.toNat < 16) : (s.push a h).dt = s.dt := rfl
@[simp] theorem State.push_st (a : Word) (h : s.sp.toNat < 16) : (s.push a h).st = s.st := rfl
@[simp] theorem State.push_held (a : Word) (h : s.sp.toNat < 16) : (s.push a h).held = s.held := rfl
@[simp] theorem State.push_rel (a : Word) (h : s.sp.toNat < 16) : (s.push a h).rel = s.rel := rfl
@[simp] theorem State.push_disp (a : Word) (h : s.sp.toNat < 16) : (s.push a h).disp = s.disp := rfl
@[simp] theorem State.push_mem (a : Word) (h : s.sp.toNat < 16) : (s.push a h).mem = s.mem := rfl
@[simp] theorem State.push_fault (a : Word) (h : s.sp.toNat < 16) : (s.push a h).fault = s.fault := rfl
@[simp] theorem State.push_cyclesLeft (a : Word) (h : s.sp.toNat < 16) : (s.push a h).cyclesLeft = s.cyclesLeft := rfl
@[simp] theorem State.push_ticks (a : Word) (h : s.sp.toNat < 16) : (s.push a h).ticks = s.ticks := rfl
@[simp] theorem State.push_draws (a : Word) (h : s.sp.toNat < 16) : (s.push a h).draws = s.draws := rfl
@[simp] theorem State.push_trace (a : Word) (h : s.sp.toNat < 16) : (s.push a h).trace = s.trace := rfl
@[simp] theorem State.push_reg (a : Word) (h : s.sp.toNat < 16) (q : Reg) : (s.push a h).reg q = s.reg q := rfl
@[simp] theorem State.push_byte (a : Word) (h : s.sp.toNat < 16) (q : Nat) : (s.push a h).byte q = s.byte q := rfl

/-! ### setSP -/

@[simp] theorem State.setSP_v (t : Byte) : (s.setSP t).v = s.v := rfl
@[simp] theorem State.setSP_i (t : Byte) : (s.setSP t).i = s.i := rfl
@[simp] theorem State.setSP_pc (t : Byte) : (s.setSP t).pc = s.pc := rfl
@[simp] theorem State.setSP_sp (t : Byte) : (s.setSP t).sp = t := rfl
@[simp] theorem State.setSP_stack (t : Byte) : (s.setSP t).stack = s.stack := rfl
@[simp] theorem State.setSP_dt (t : Byte) : (s.setSP t).dt = s.dt := rfl
@[simp] theorem State.setSP_st (t : Byte) : (s.setSP t).st = s.st := rfl
@[simp] theorem State.setSP_held (t : Byte) : (s.setSP t).held = s.held := rfl
@[simp] theorem State.setSP_rel (t : Byte) : (s.setSP t).rel = s.rel := rfl
@[simp] theorem State.setSP_disp (t : Byte) : (s.setSP t).disp = s.disp := rfl
@[simp] theorem State.setSP_mem (t : Byte) : (s.setSP t).mem = s.mem := rfl
@[simp] theorem State.setSP_fault (t : Byte) : (s.setSP t).fault = s.fault := rfl
@[simp] theorem State.setSP_cyclesLeft (t : Byte) : (s.setSP t).cyclesLeft = s.cyclesLeft := rfl
@[simp] theorem State.setSP_ticks (t : Byte) : (s.setSP t).ticks = s.ticks := rfl
@[simp] theorem State.setSP_draws (t : Byte) : (s.setSP t).draws = s.draws := rfl
@[simp] theorem State.setSP_trace (t : Byte) : (s.setSP t).trace = s.trace := rfl
@[simp] theorem State.setSP_reg (t : Byte) (q : Reg) : (s.setSP t).reg q = s.reg q := rfl
@[simp] theorem State.setSP_byte (t : Byte) (q : Nat) : (s.setSP t).byte q = s.byte q := rfl

/-! ### setDisp -/

@[simp] theorem State.setDisp_v (d : Display) : (s.setDisp d).v = s.v := rfl
@[simp] theorem State.setDisp_i (d : Display) : (s.setDisp d).i = s.i := rfl
@[simp] theorem State.setDisp_pc (d : Display) : (s.setDisp d).pc = s.pc := rfl
@[simp] theorem State.setDisp_sp (d : Display) : (s.setDisp d).sp = s.sp := rfl
@[simp] theorem State.setDisp_stack (d : Display) : (s.setDisp d).stack = s.stack := rfl
@[simp] theorem State.setDisp_dt (d : Display) : (s.setDisp d).dt = s.dt := rfl
@[simp] theorem State.setDisp_st (d : Display) : (s.setDisp d).st = s.st := rfl
@[simp] theorem State.setDisp_held (d : Display) : (s.setDisp d).held = s.held := rfl
@[simp] theorem State.setDisp_rel (d : Display) : (s.setDisp d).rel = s.rel := rfl
@[simp] theorem State.setDisp_disp (d : Display) : (s.setDisp d).disp = d := rfl
@[simp] theorem State.setDisp_mem (d : Display) : (s.setDisp d).mem = s.mem := rfl
@[simp] theorem State.setDisp_fault (d : Display) : (s.setDisp d).fault = s.fault := rfl
@[simp] theorem State.setDisp_cyclesLeft (d : Display) : (s.setDisp d).cyclesLeft = s.cyclesLeft := rfl
@[simp] theorem State.setDisp_ticks (d : Display) : (s.setDisp d).ticks = s.ticks := rfl
@[simp] theorem State.setDisp_draws (d : Display) : (s.setDisp d).draws = s.draws := rfl
@[simp] theorem State.setDisp_trace (d : Display) : (s.setDisp d).trace = s.trace := rfl
@[simp] theorem State.setDisp_reg (d : Display) (q : Reg) : (s.setDisp d).reg q = s.reg q := rfl
@[simp] theorem State.setDisp_byte (d : Display) (q : Nat) : (s.setDisp d).byte q = s.byte q := rfl

/-! ### setMem -/

@[simp] theorem State.setMem_v (m : Memory) : (s.setMem m).v = s.v := rfl
@[simp] theorem State.setMem_i (m : Memory) : (s.setMem m).i = s.i := rfl
@[simp] theorem State.setMem_pc (m : Memory) : (s.setMem m).pc = s.pc := rfl
@[simp] theorem State.setMem_sp (m : Memory) : (s.setMem m).sp = s.sp := rfl
@[simp] theorem State.setMem_stack (m : Memory) : (s.setMem m).stack = s.stack := rfl
@[simp] theorem State.setMem_dt (m : Memory) : (s.setMem m).dt = s.dt := rfl
@[simp] theorem State.setMem_st (m : Memory) : (s.setMem m).st = s.st := rfl
@[simp] theorem State.setMem_held (m : Memory) : (s.setMem m).held = s.held := rfl
@[simp] theorem State.setMem_rel (m : Memory) : (s.setMem m).rel = s.rel := rfl
@[simp] theorem State.setMem_disp (m : Memory) : (s.setMem m).disp = s.disp := rfl
@[simp] theorem State.setMem_mem (m : Memory) : (s.setMem m).mem = m := rfl
@[simp] theorem State.setMem_fault (m : Memory) : (s.setMem m).fault = s.fault := rfl
@[simp] theorem State.setMem_cyclesLeft (m : Memory) : (s.setMem m).cyclesLeft = s.cyclesLeft := rfl
@[simp] theorem State.setMem_ticks (m : Memory) : (s.setMem m).ticks = s.ticks := rfl
@[simp] theorem State.setMem_draws (m : Memory) : (s.setMem m).draws = s.draws := rfl
@[simp] theorem State.setMem_trace (m : Memory) : (s.setMem m).trace = s.trace := rfl
@[simp] theorem State.setMem_reg (m : Memory) (q : Reg) : (s.setMem m).reg q = s.reg q := rfl

/-! ### emit -/

@[simp] theorem State.emit_v (o : Strobe) : (s.emit o).v = s.v := rfl
@[simp] theorem State.emit_i (o : Strobe) : (s.emit o).i = s.i := rfl
@[simp] theorem State.emit_pc (o : Strobe) : (s.emit o).pc = s.pc := rfl
@[simp] theorem State.emit_sp (o : Strobe) : (s.emit o).sp = s.sp := rfl
@[simp] theorem State.emit_stack (o : Strobe) : (s.emit o).stack = s.stack := rfl
@[simp] theorem State.emit_dt (o : Strobe) : (s.emit o).dt = s.dt := rfl
@[simp] theorem State.emit_st (o : Strobe) : (s.emit o).st = s.st := rfl
@[simp] theorem State.emit_held (o : Strobe) : (s.emit o).held = s.held := rfl
@[simp] theorem State.emit_rel (o : Strobe) : (s.emit o).rel = s.rel := rfl
@[simp] theorem State.emit_disp (o : Strobe) : (s.emit o).disp = s.disp := rfl
@[simp] theorem State.emit_mem (o : Strobe) : (s.emit o).mem = s.mem := rfl
@[simp] theorem State.emit_fault (o : Strobe) : (s.emit o).fault = s.fault := rfl
@[simp] theorem State.emit_cyclesLeft (o : Strobe) : (s.emit o).cyclesLeft = s.cyclesLeft := rfl
@[simp] theorem State.emit_ticks (o : Strobe) : (s.emit o).ticks = s.ticks := rfl
@[simp] theorem State.emit_draws (o : Strobe) : (s.emit o).draws = s.draws := rfl
@[simp] theorem State.emit_trace (o : Strobe) : (s.emit o).trace = o :: s.trace := rfl
@[simp] theorem State.emit_reg (o : Strobe) (q : Reg) : (s.emit o).reg q = s.reg q := rfl
@[simp] theorem State.emit_byte (o : Strobe) (q : Nat) : (s.emit o).byte q = s.byte q := rfl

/-! ### drawn -/

@[simp] theorem State.drawn_v : (s.drawn).v = s.v := rfl
@[simp] theorem State.drawn_i : (s.drawn).i = s.i := rfl
@[simp] theorem State.drawn_pc : (s.drawn).pc = s.pc := rfl
@[simp] theorem State.drawn_sp : (s.drawn).sp = s.sp := rfl
@[simp] theorem State.drawn_stack : (s.drawn).stack = s.stack := rfl
@[simp] theorem State.drawn_dt : (s.drawn).dt = s.dt := rfl
@[simp] theorem State.drawn_st : (s.drawn).st = s.st := rfl
@[simp] theorem State.drawn_held : (s.drawn).held = s.held := rfl
@[simp] theorem State.drawn_rel : (s.drawn).rel = s.rel := rfl
@[simp] theorem State.drawn_disp : (s.drawn).disp = s.disp := rfl
@[simp] theorem State.drawn_mem : (s.drawn).mem = s.mem := rfl
@[simp] theorem State.drawn_fault : (s.drawn).fault = s.fault := rfl
@[simp] theorem State.drawn_cyclesLeft : (s.drawn).cyclesLeft = s.cyclesLeft := rfl
@[simp] theorem State.drawn_ticks : (s.drawn).ticks = s.ticks := rfl
@[simp] theorem State.drawn_draws : (s.drawn).draws = s.draws + 1 := rfl
@[simp] theorem State.drawn_trace : (s.drawn).trace = s.trace := rfl
@[simp] theorem State.drawn_reg (q : Reg) : (s.drawn).reg q = s.reg q := rfl
@[simp] theorem State.drawn_byte (q : Nat) : (s.drawn).byte q = s.byte q := rfl

/-! ### takeFault -/

@[simp] theorem State.takeFault_v (a : Word) (c : FaultCause) (n : Nat) : (s.takeFault a c n).v = s.v := rfl
@[simp] theorem State.takeFault_i (a : Word) (c : FaultCause) (n : Nat) : (s.takeFault a c n).i = s.i := rfl
@[simp] theorem State.takeFault_pc (a : Word) (c : FaultCause) (n : Nat) : (s.takeFault a c n).pc = a := rfl
@[simp] theorem State.takeFault_sp (a : Word) (c : FaultCause) (n : Nat) : (s.takeFault a c n).sp = s.sp := rfl
@[simp] theorem State.takeFault_stack (a : Word) (c : FaultCause) (n : Nat) : (s.takeFault a c n).stack = s.stack := rfl
@[simp] theorem State.takeFault_dt (a : Word) (c : FaultCause) (n : Nat) : (s.takeFault a c n).dt = s.dt := rfl
@[simp] theorem State.takeFault_st (a : Word) (c : FaultCause) (n : Nat) : (s.takeFault a c n).st = s.st := rfl
@[simp] theorem State.takeFault_held (a : Word) (c : FaultCause) (n : Nat) : (s.takeFault a c n).held = s.held := rfl
@[simp] theorem State.takeFault_rel (a : Word) (c : FaultCause) (n : Nat) : (s.takeFault a c n).rel = s.rel := rfl
@[simp] theorem State.takeFault_disp (a : Word) (c : FaultCause) (n : Nat) : (s.takeFault a c n).disp = s.disp := rfl
@[simp] theorem State.takeFault_mem (a : Word) (c : FaultCause) (n : Nat) : (s.takeFault a c n).mem = s.mem := rfl
@[simp] theorem State.takeFault_fault (a : Word) (c : FaultCause) (n : Nat) : (s.takeFault a c n).fault = ⟨c, n⟩ := rfl
@[simp] theorem State.takeFault_cyclesLeft (a : Word) (c : FaultCause) (n : Nat) : (s.takeFault a c n).cyclesLeft = s.cyclesLeft := rfl
@[simp] theorem State.takeFault_ticks (a : Word) (c : FaultCause) (n : Nat) : (s.takeFault a c n).ticks = s.ticks := rfl
@[simp] theorem State.takeFault_draws (a : Word) (c : FaultCause) (n : Nat) : (s.takeFault a c n).draws = s.draws := rfl
@[simp] theorem State.takeFault_trace (a : Word) (c : FaultCause) (n : Nat) : (s.takeFault a c n).trace = s.trace := rfl
@[simp] theorem State.takeFault_reg (a : Word) (c : FaultCause) (n : Nat) (q : Reg) : (s.takeFault a c n).reg q = s.reg q := rfl
@[simp] theorem State.takeFault_byte (a : Word) (c : FaultCause) (n : Nat) (q : Nat) : (s.takeFault a c n).byte q = s.byte q := rfl

/-! ### raise -/

@[simp] theorem State.raise_v (c : FaultCause) (n : Nat) : (s.raise c n).v = s.v := rfl
@[simp] theorem State.raise_i (c : FaultCause) (n : Nat) : (s.raise c n).i = s.i := rfl
@[simp] theorem State.raise_pc (c : FaultCause) (n : Nat) : (s.raise c n).pc = s.pc - 2 := rfl
@[simp] theorem State.raise_sp (c : FaultCause) (n : Nat) : (s.raise c n).sp = s.sp := rfl
@[simp] theorem State.raise_stack (c : FaultCause) (n : Nat) : (s.raise c n).stack = s.stack := rfl
@[simp] theorem State.raise_dt (c : FaultCause) (n : Nat) : (s.raise c n).dt = s.dt := rfl
@[simp] theorem State.raise_st (c : FaultCause) (n : Nat) : (s.raise c n).st = s.st := rfl
@[simp] theorem State.raise_held (c : FaultCause) (n : Nat) : (s.raise c n).held = s.held := rfl
@[simp] theorem State.raise_rel (c : FaultCause) (n : Nat) : (s.raise c n).rel = s.rel := rfl
@[simp] theorem State.raise_disp (c : FaultCause) (n : Nat) : (s.raise c n).disp = s.disp := rfl
@[simp] theorem State.raise_mem (c : FaultCause) (n : Nat) : (s.raise c n).mem = s.mem := rfl
@[simp] theorem State.raise_fault (c : FaultCause) (n : Nat) : (s.raise c n).fault = ⟨c, n⟩ := rfl
@[simp] theorem State.raise_cyclesLeft (c : FaultCause) (n : Nat) : (s.raise c n).cyclesLeft = s.cyclesLeft := rfl
@[simp] theorem State.raise_ticks (c : FaultCause) (n : Nat) : (s.raise c n).ticks = s.ticks := rfl
@[simp] theorem State.raise_draws (c : FaultCause) (n : Nat) : (s.raise c n).draws = s.draws := rfl
@[simp] theorem State.raise_trace (c : FaultCause) (n : Nat) : (s.raise c n).trace = s.trace := rfl
@[simp] theorem State.raise_reg (c : FaultCause) (n : Nat) (q : Reg) : (s.raise c n).reg q = s.reg q := rfl
@[simp] theorem State.raise_byte (c : FaultCause) (n : Nat) (q : Nat) : (s.raise c n).byte q = s.byte q := rfl

/-! ### setVF -/

@[simp] theorem State.setVF_v (c : Bool) : (s.setVF c).v = s.v.set regVF (flagByte c) := rfl
@[simp] theorem State.setVF_i (c : Bool) : (s.setVF c).i = s.i := rfl
@[simp] theorem State.setVF_pc (c : Bool) : (s.setVF c).pc = s.pc := rfl
@[simp] theorem State.setVF_sp (c : Bool) : (s.setVF c).sp = s.sp := rfl
@[simp] theorem State.setVF_stack (c : Bool) : (s.setVF c).stack = s.stack := rfl
@[simp] theorem State.setVF_dt (c : Bool) : (s.setVF c).dt = s.dt := rfl
@[simp] theorem State.setVF_st (c : Bool) : (s.setVF c).st = s.st := rfl
@[simp] theorem State.setVF_held (c : Bool) : (s.setVF c).held = s.held := rfl
@[simp] theorem State.setVF_rel (c : Bool) : (s.setVF c).rel = s.rel := rfl
@[simp] theorem State.setVF_disp (c : Bool) : (s.setVF c).disp = s.disp := rfl
@[simp] theorem State.setVF_mem (c : Bool) : (s.setVF c).mem = s.mem := rfl
@[simp] theorem State.setVF_fault (c : Bool) : (s.setVF c).fault = s.fault := rfl
@[simp] theorem State.setVF_cyclesLeft (c : Bool) : (s.setVF c).cyclesLeft = s.cyclesLeft := rfl
@[simp] theorem State.setVF_ticks (c : Bool) : (s.setVF c).ticks = s.ticks := rfl
@[simp] theorem State.setVF_draws (c : Bool) : (s.setVF c).draws = s.draws := rfl
@[simp] theorem State.setVF_trace (c : Bool) : (s.setVF c).trace = s.trace := rfl
@[simp] theorem State.setVF_byte (c : Bool) (q : Nat) : (s.setVF c).byte q = s.byte q := rfl

/-! ### setFlagThenReg -/

@[simp] theorem State.setFlagThenReg_v (c : Bool) (x : Reg) (b : Byte) : (s.setFlagThenReg c x b).v = (s.v.set regVF (flagByte c)).set x b := rfl
@[simp] theorem State.setFlagThenReg_i (c : Bool) (x : Reg) (b : Byte) : (s.setFlagThenReg c x b).i = s.i := rfl
@[simp] theorem State.setFlagThenReg_pc (c : Bool) (x : Reg) (b : Byte) : (s.setFlagThenReg c x b).pc = s.pc := rfl
@[simp] theorem State.setFlagThenReg_sp (c : Bool) (x : Reg) (b : Byte) : (s.setFlagThenReg c x b).sp = s.sp := rfl
@[simp] theorem State.setFlagThenReg_stack (c : Bool) (x : Reg) (b : Byte) : (s.setFlagThenReg c x b).stack = s.stack := rfl
@[simp] theorem State.setFlagThenReg_dt (c : Bool) (x : Reg) (b : Byte) : (s.setFlagThenReg c x b).dt = s.dt := rfl
@[simp] theorem State.setFlagThenReg_st (c : Bool) (x : Reg) (b : Byte) : (s.setFlagThenReg c x b).st = s.st := rfl
@[simp] theorem State.setFlagThenReg_held (c : Bool) (x : Reg) (b : Byte) : (s.setFlagThenReg c x b).held = s.held := rfl
@[simp] theorem State.setFlagThenReg_rel (c : Bool) (x : Reg) (b : Byte) : (s.setFlagThenReg c x b).rel = s.rel := rfl
@[simp] theorem State.setFlagThenReg_disp (c : Bool) (x : Reg) (b : Byte) : (s.setFlagThenReg c x b).disp = s.disp := rfl
@[simp] theorem State.setFlagThenReg_mem (c : Bool) (x : Reg) (b : Byte) : (s.setFlagThenReg c x b).mem = s.mem := rfl
@[simp] theorem State.setFlagThenReg_fault (c : Bool) (x : Reg) (b : Byte) : (s.setFlagThenReg c x b).fault = s.fault := rfl
@[simp] theorem State.setFlagThenReg_cyclesLeft (c : Bool) (x : Reg) (b : Byte) : (s.setFlagThenReg c x b).cyclesLeft = s.cyclesLeft := rfl
@[simp] theorem State.setFlagThenReg_ticks (c : Bool) (x : Reg) (b : Byte) : (s.setFlagThenReg c x b).ticks = s.ticks := rfl
@[simp] theorem State.setFlagThenReg_draws (c : Bool) (x : Reg) (b : Byte) : (s.setFlagThenReg c x b).draws = s.draws := rfl
@[simp] theorem State.setFlagThenReg_trace (c : Bool) (x : Reg) (b : Byte) : (s.setFlagThenReg c x b).trace = s.trace := rfl
@[simp] theorem State.setFlagThenReg_byte (c : Bool) (x : Reg) (b : Byte) (q : Nat) : (s.setFlagThenReg c x b).byte q = s.byte q := rfl

/-! ### setKeys -/

@[simp] theorem State.setKeys_v (a b : Word) : (s.setKeys a b).v = s.v := rfl
@[simp] theorem State.setKeys_i (a b : Word) : (s.setKeys a b).i = s.i := rfl
@[simp] theorem State.setKeys_pc (a b : Word) : (s.setKeys a b).pc = s.pc := rfl
@[simp] theorem State.setKeys_sp (a b : Word) : (s.setKeys a b).sp = s.sp := rfl
@[simp] theorem State.setKeys_stack (a b : Word) : (s.setKeys a b).stack = s.stack := rfl
@[simp] theorem State.setKeys_dt (a b : Word) : (s.setKeys a b).dt = s.dt := rfl
@[simp] theorem State.setKeys_st (a b : Word) : (s.setKeys a b).st = s.st := rfl
@[simp] theorem State.setKeys_held (a b : Word) : (s.setKeys a b).held = a := rfl
@[simp] theorem State.setKeys_rel (a b : Word) : (s.setKeys a b).rel = b := rfl
@[simp] theorem State.setKeys_disp (a b : Word) : (s.setKeys a b).disp = s.disp := rfl
@[simp] theorem State.setKeys_mem (a b : Word) : (s.setKeys a b).mem = s.mem := rfl
@[simp] theorem State.setKeys_fault (a b : Word) : (s.setKeys a b).fault = s.fault := rfl
@[simp] theorem State.setKeys_cyclesLeft (a b : Word) : (s.setKeys a b).cyclesLeft = s.cyclesLeft := rfl
@[simp] theorem State.setKeys_ticks (a b : Word) : (s.setKeys a b).ticks = s.ticks := rfl
@[simp] theorem State.setKeys_draws (a b : Word) : (s.setKeys a b).draws = s.draws := rfl
@[simp] theorem State.setKeys_trace (a b : Word) : (s.setKeys a b).trace = s.trace := rfl
@[simp] theorem State.setKeys_reg (a b : Word) (q : Reg) : (s.setKeys a b).reg q = s.reg q := rfl
@[simp] theorem State.setKeys_byte (a b : Word) (q : Nat) : (s.setKeys a b).byte q = s.byte q := rfl

/-! ### setCyclesLeft -/

@[simp] theorem State.setCyclesLeft_v (n : Nat) : (s.setCyclesLeft n).v = s.v := rfl
@[simp] theorem State.setCyclesLeft_i (n : Nat) : (s.setCyclesLeft n).i = s.i := rfl
@[simp] theorem State.setCyclesLeft_pc (n : Nat) : (s.setCyclesLeft n).pc = s.pc := rfl
@[simp] theorem State.setCyclesLeft_sp (n : Nat) : (s.setCyclesLeft n).sp = s.sp := rfl
@[simp] theorem State.setCyclesLeft_stack (n : Nat) : (s.setCyclesLeft n).stack = s.stack := rfl
@[simp] theorem State.setCyclesLeft_dt (n : Nat) : (s.setCyclesLeft n).dt = s.dt := rfl
@[simp] theorem State.setCyclesLeft_st (n : Nat) : (s.setCyclesLeft n).st = s.st := rfl
@[simp] theorem State.setCyclesLeft_held (n : Nat) : (s.setCyclesLeft n).held = s.held := rfl
@[simp] theorem State.setCyclesLeft_rel (n : Nat) : (s.setCyclesLeft n).rel = s.rel := rfl
@[simp] theorem State.setCyclesLeft_disp (n : Nat) : (s.setCyclesLeft n).disp = s.disp := rfl
@[simp] theorem State.setCyclesLeft_mem (n : Nat) : (s.setCyclesLeft n).mem = s.mem := rfl
@[simp] theorem State.setCyclesLeft_fault (n : Nat) : (s.setCyclesLeft n).fault = s.fault := rfl
@[simp] theorem State.setCyclesLeft_cyclesLeft (n : Nat) : (s.setCyclesLeft n).cyclesLeft = n := rfl
@[simp] theorem State.setCyclesLeft_ticks (n : Nat) : (s.setCyclesLeft n).ticks = s.ticks := rfl
@[simp] theorem State.setCyclesLeft_draws (n : Nat) : (s.setCyclesLeft n).draws = s.draws := rfl
@[simp] theorem State.setCyclesLeft_trace (n : Nat) : (s.setCyclesLeft n).trace = s.trace := rfl
@[simp] theorem State.setCyclesLeft_reg (n : Nat) (q : Reg) : (s.setCyclesLeft n).reg q = s.reg q := rfl
@[simp] theorem State.setCyclesLeft_byte (n : Nat) (q : Nat) : (s.setCyclesLeft n).byte q = s.byte q := rfl

/-! ### startPeriod -/

@[simp] theorem State.startPeriod_v : (s.startPeriod).v = s.v := rfl
@[simp] theorem State.startPeriod_i : (s.startPeriod).i = s.i := rfl
@[simp] theorem State.startPeriod_pc : (s.startPeriod).pc = s.pc := rfl
@[simp] theorem State.startPeriod_sp : (s.startPeriod).sp = s.sp := rfl
@[simp] theorem State.startPeriod_stack : (s.startPeriod).stack = s.stack := rfl
@[simp] theorem State.startPeriod_dt : (s.startPeriod).dt = s.dt := rfl
@[simp] theorem State.startPeriod_st : (s.startPeriod).st = s.st := rfl
@[simp] theorem State.startPeriod_held : (s.startPeriod).held = s.held := rfl
@[simp] theorem State.startPeriod_rel : (s.startPeriod).rel = s.rel := rfl
@[simp] theorem State.startPeriod_disp : (s.startPeriod).disp = s.disp := rfl
@[simp] theorem State.startPeriod_mem : (s.startPeriod).mem = s.mem := rfl
@[simp] theorem State.startPeriod_fault : (s.startPeriod).fault = s.fault := rfl
@[simp] theorem State.startPeriod_cyclesLeft : (s.startPeriod).cyclesLeft = Config.cyclesPerTick := rfl
@[simp] theorem State.startPeriod_ticks : (s.startPeriod).ticks = s.ticks + 1 := rfl
@[simp] theorem State.startPeriod_draws : (s.startPeriod).draws = s.draws := rfl
@[simp] theorem State.startPeriod_trace : (s.startPeriod).trace = s.trace := rfl
@[simp] theorem State.startPeriod_reg (q : Reg) : (s.startPeriod).reg q = s.reg q := rfl
@[simp] theorem State.startPeriod_byte (q : Nat) : (s.startPeriod).byte q = s.byte q := rfl

end Sys2Proof.Machine
end

