-- ==== Sys2Proof/Laws/Memory.lean ====
section
/-!
SUPPORT. The laws of memory (20_memory.md R66, R67): a read after a write, what a write leaves alone, and that every
memory operation keeps the canonical form.
-/

namespace Sys2Proof.Machine

theorem Memory.read_of_absent : ∀ (m : Memory) (a : Nat), (∀ c ∈ m, c.1 ≠ a) → Memory.read m a = unlisted a
  | [], _, _ => rfl
  | (b, w) :: m, a, h => by
    have hb : b ≠ a := h (b, w) (by simp)
    simpa [Memory.read, hb] using Memory.read_of_absent m a (fun c hc => h c (by simp [hc]))

theorem Memory.read_insert : ∀ (m : Memory) (a : Nat) (w : Byte) (x : Nat), (∀ c ∈ m, c.1 ≠ a) →
    Memory.read (Memory.insert a w m) x = if x = a then w else Memory.read m x
  | [], a, w, x, _ => by simp [Memory.insert, Memory.read, eq_comm]
  | (b, u) :: m, a, w, x, h => by
    have hb : b ≠ a := h (b, u) (by simp)
    have ih := Memory.read_insert m a w x (fun c hc => h c (by simp [hc]))
    unfold Memory.insert
    split
    · by_cases hx : x = a
      · simp [Memory.read, hx]
      · simp [Memory.read, hx, Ne.symm hx]
    · by_cases hbx : b = x
      · subst hbx; simp [Memory.read, hb]
      · simp [Memory.read, hbx, ih]

theorem Memory.read_filter (a x : Nat) (hx : x ≠ a) : ∀ m : Memory,
    Memory.read (m.filter (fun c => c.1 ≠ a)) x = Memory.read m x
  | [] => rfl
  | (b, u) :: m => by
    have ih := Memory.read_filter a x hx m
    by_cases hb : b = a
    · subst hb
      rw [List.filter_cons_of_neg (by simp), ih]
      simp [Memory.read, Ne.symm hx]
    · rw [List.filter_cons_of_pos (by simpa using hb)]
      by_cases hbx : b = x
      · simp [Memory.read, hbx]
      · simp only [Memory.read, if_neg hbx, ih]

/-- A read after a write: the byte written at its address, the old byte at every other (20_memory.md R67). -/
theorem Memory.read_write (m : Memory) (a : Nat) (w : Byte) (x : Nat) :
    Memory.read (Memory.write m a w) x = if x = a then w else Memory.read m x := by
  have habs : ∀ c ∈ m.filter (fun c => c.1 ≠ a), c.1 ≠ a := by
    intro c hc; simpa using (List.mem_filter.mp hc).2
  unfold Memory.write
  by_cases hx : x = a
  · subst hx
    rw [if_pos rfl]
    split
    · rename_i hw; rw [Memory.read_of_absent _ _ habs, hw]
    · rw [Memory.read_insert _ _ _ _ habs, if_pos rfl]
  · rw [if_neg hx]
    split
    · exact Memory.read_filter a x hx m
    · rw [Memory.read_insert _ _ _ _ habs, if_neg hx, Memory.read_filter a x hx]

theorem Memory.mem_insert {a : Nat} {w : Byte} {c : Host.Cell} : ∀ {m : Memory},
    c ∈ Memory.insert a w m ↔ c = (a, w) ∨ c ∈ m
  | [] => by simp [Memory.insert]
  | (b, u) :: m => by
    unfold Memory.insert
    split
    · simp
    · simp only [List.mem_cons, Memory.mem_insert (m := m)]; tauto

theorem Memory.pairwise_insert {a : Nat} {w : Byte} : ∀ {m : Memory},
    m.Pairwise (fun c d => c.1 < d.1) → (∀ c ∈ m, c.1 ≠ a) →
      (Memory.insert a w m).Pairwise (fun c d => c.1 < d.1)
  | [], _, _ => by simp [Memory.insert]
  | (b, u) :: m, hp, hn => by
    obtain ⟨hb, hm⟩ := List.pairwise_cons.mp hp
    have hba : b ≠ a := hn (b, u) (by simp)
    unfold Memory.insert
    split
    · rename_i hlt
      refine List.pairwise_cons.mpr ⟨?_, hp⟩
      intro c hc
      rcases List.mem_cons.mp hc with rfl | hc
      · exact hlt
      · exact Nat.lt_trans hlt (hb c hc)
    · rename_i hlt
      refine List.pairwise_cons.mpr ⟨?_, Memory.pairwise_insert hm (fun c hc => hn c (by simp [hc]))⟩
      intro c hc
      rcases Memory.mem_insert.mp hc with rfl | hc
      · simp only; omega
      · exact hb c hc

/-- A write to an address that exists keeps the canonical form. -/
theorem Memory.wf_write {m : Memory} {a : Nat} (w : Byte) (hm : Memory.wf m) (ha : a < Config.memSize) :
    Memory.wf (Memory.write m a w) := by
  obtain ⟨hp, hc⟩ := hm
  have habs : ∀ c ∈ m.filter (fun c => c.1 ≠ a), c.1 ≠ a := by
    intro c hc; simpa using (List.mem_filter.mp hc).2
  have hp' := hp.filter (fun c => c.1 ≠ a)
  have hc' : ∀ c ∈ m.filter (fun c => c.1 ≠ a), c.1 < Config.memSize ∧ c.2 ≠ unlisted c.1 :=
    fun c h => hc c (List.mem_filter.mp h).1
  unfold Memory.write
  split
  · exact ⟨hp', hc'⟩
  · rename_i hw
    refine ⟨Memory.pairwise_insert hp' habs, ?_⟩
    intro c h
    rcases Memory.mem_insert.mp h with rfl | h
    · exact ⟨ha, hw⟩
    · exact hc' c h

/-- A run of writes, read at an address: the byte of the run there, or the old byte. -/
theorem Memory.read_writeRun : ∀ (ws : List Byte) (m : Memory) (a x : Nat),
    Memory.read (Memory.writeRun m a ws) x =
      if a ≤ x ∧ x < a + ws.length then ws.getD (x - a) 0 else Memory.read m x
  | [], m, a, x => by simp [Memory.writeRun]
  | w :: ws, m, a, x => by
    rw [Memory.writeRun, Memory.read_writeRun ws, Memory.read_write]
    by_cases h1 : x = a
    · subst h1; simp
    · by_cases h2 : a + 1 ≤ x ∧ x < a + 1 + ws.length
      · rw [if_pos h2, if_pos ⟨by omega, by simp; omega⟩]
        obtain ⟨k, rfl⟩ : ∃ k, x = a + 1 + k := ⟨x - (a + 1), by omega⟩
        simp [show a + 1 + k - a = k + 1 by omega]
      · rw [if_neg h2, if_neg h1, if_neg (by simp only [List.length_cons]; omega)]

/-- A run of writes to addresses that exist keeps the canonical form. -/
theorem Memory.wf_writeRun : ∀ (ws : List Byte) {m : Memory} {a : Nat}, Memory.wf m →
    a + ws.length ≤ Config.memSize → Memory.wf (Memory.writeRun m a ws)
  | [], _, _, hm, _ => hm
  | w :: ws, _, a, hm, h => by
    simp only [List.length_cons] at h
    exact Memory.wf_writeRun ws (Memory.wf_write w hm (by omega)) (by omega)

@[simp] theorem Memory.length_readRun (m : Memory) (a n : Nat) : (Memory.readRun m a n).length = n := by
  simp [Memory.readRun]

/-- Byte j of a run read is the byte at a + j (20_memory.md R66). -/
theorem Memory.getD_readRun (m : Memory) (a n j : Nat) (d : Byte) (h : j < n) :
    (Memory.readRun m a n).getD j d = Memory.read m (a + j) := by
  simp [Memory.readRun, List.getD, h]

end Sys2Proof.Machine
end

