-- ==== Sys2Proof/Laws/Ops.lean ====
section
/-!
SUPPORT. For each shared operation, what it can do, said once: registers and flags, the access primitives, the key
operand, the fetch and the scheduler.
-/

namespace Sys2Proof.Machine

/-! ### Registers and flags -/

/-- A register after a register write (10_state.md R21). -/
theorem State.reg_setReg (s : State) (r q : Reg) (b : Byte) :
    (s.setReg r b).reg q = if q = r then b else s.reg q := by
  simp only [State.reg, State.setReg_v]
  by_cases h : q = r
  · subst h; simp
  · rw [if_neg h]
    simpa using Vector.getElem_set_ne (xs := s.v) r.isLt q.isLt (fun hv => h (Fin.ext hv.symm))

/-- A register after a flag write (10_state.md R22). -/
theorem State.reg_setVF (s : State) (c : Bool) (q : Reg) :
    (s.setVF c).reg q = if q = regVF then flagByte c else s.reg q := State.reg_setReg _ _ _ _

/-- A register after the flag write and the data write: the data stands (42_load_alu.md R173). -/
theorem State.reg_setFlagThenReg (s : State) (c : Bool) (x q : Reg) (b : Byte) :
    (s.setFlagThenReg c x b).reg q = if q = x then b else if q = regVF then flagByte c else s.reg q := by
  rw [State.setFlagThenReg, State.reg_setReg, State.reg_setVF]

/-- A register after a run of registers is loaded (43_index_memory.md R195). -/
theorem State.reg_setRegs (s : State) (bs : List Byte) (q : Reg) :
    (s.setRegs bs).reg q = bs.getD q (s.reg q) := by
  simp [State.reg, State.setRegs]

@[simp] theorem State.length_regsUpTo (s : State) (x : Reg) : (s.regsUpTo x).length = x + 1 := by
  have := x.isLt
  simp [State.regsUpTo]

/-- Entry j of V[0], …, V[x] (43_index_memory.md R194). -/
theorem State.getD_regsUpTo (s : State) (x q : Reg) (d : Byte) (h : q ≤ x) :
    (s.regsUpTo x).getD q d = s.reg q := by
  have h' : q.val < x.val + 1 := Nat.lt_succ_of_le h
  simp [State.regsUpTo, State.reg, List.getD, h']

/-! ### The access primitives -/

theorem inRange_iff (a n : Nat) : inRange a n = true ↔ n = 0 ∨ a + n ≤ 0x1000 := by
  rw [inRange, Bool.or_eq_true, beq_iff_eq, decide_eq_true_iff]
  rfl

/-- What MemRead can do (20_memory.md R66). -/
theorem State.memRead_cases {s : State} {a n : Nat} {k : List Byte → Host.Outcome State Fault Refusal}
    {o : Host.Outcome State Fault Refusal} (h : s.memRead a n k = o) :
    (inRange a n = true ∧ o = k (Memory.readRun s.mem a n)) ∨
    (inRange a n = false ∧ o = .next (s.raise .readRange (firstOutOfRange a))) := by
  unfold State.memRead at h
  split at h
  · exact .inl ⟨by assumption, h.symm⟩
  · exact .inr ⟨by simp_all, h.symm⟩

/-- What MemWrite can do (20_memory.md R67). -/
theorem State.memWrite_cases {s : State} {a : Nat} {bytes : List Byte}
    {o : Host.Outcome State Fault Refusal} (h : s.memWrite a bytes = o) :
    (inRange a bytes.length = true ∧ o = .next (s.setMem (Memory.writeRun s.mem a bytes))) ∨
    (inRange a bytes.length = false ∧ o = .next (s.raise .writeRange (firstOutOfRange a))) := by
  unfold State.memWrite at h
  split at h
  · exact .inl ⟨by assumption, h.symm⟩
  · exact .inr ⟨by simp_all, h.symm⟩

/-- A byte of memory after a run of bytes was stored. -/
theorem State.byte_setMem_writeRun (s : State) (a x : Nat) (ws : List Byte) :
    (s.setMem (Memory.writeRun s.mem a ws)).byte x =
      if a ≤ x ∧ x < a + ws.length then ws.getD (x - a) 0 else s.byte x :=
  Memory.read_writeRun ws s.mem a x

/-! ### Keys -/

/-- What indexing a key vector can do (45_keys_timers.md R230, R231). -/
theorem State.keyOperand_cases (s : State) (vec : Word) (b : Byte) (k : Bool → State) :
    (b.toNat ≤ 15 ∧ s.keyOperand vec b k = k (keyBit vec b.toNat)) ∨
    (15 < b.toNat ∧ s.keyOperand vec b k = s.raise .keyIndex b.toNat) := by
  unfold State.keyOperand
  split
  · exact .inl ⟨by assumption, rfl⟩
  · exact .inr ⟨by omega, rfl⟩

/-- The least key whose bit is set (45_keys_timers.md R232). -/
theorem leastKey_eq_some {vec : Word} {k : Nat} :
    leastKey vec = some k ↔ k < 16 ∧ keyBit vec k = true ∧ ∀ j < k, keyBit vec j = false := by
  simp only [leastKey, List.find?_range_eq_some]
  constructor
  · rintro ⟨h1, h2, h3⟩; exact ⟨by simpa using h2, h1, fun j hj => by simpa using h3 j hj⟩
  · rintro ⟨h1, h2, h3⟩; exact ⟨h2, by simpa using h1, fun j hj => by simpa using h3 j hj⟩

theorem leastKey_eq_none {vec : Word} : leastKey vec = none ↔ ∀ k < 16, keyBit vec k = false := by
  simp [leastKey]

/-! ### The cycle and the scheduler -/

/-- What an event of the scheduler can be (40_cycle.md R125). -/
theorem step_cases (s : State) :
    (s.cyclesLeft = 0 ∧
      step s = .next (tickEvent (Config.heldVector s.ticks) (Config.releasedVector s.ticks) s.startPeriod)) ∨
    (∃ n, s.cyclesLeft = n + 1 ∧ step s = cycleEvent (s.setCyclesLeft n)) := by
  cases h : s.cyclesLeft with
  | zero => exact .inl ⟨rfl, by simp [step, scheduledEvent, h]⟩
  | succ n => exact .inr ⟨n, rfl, by simp [step, scheduledEvent, h]⟩

/-- What a Cycle can do (40_cycle.md R122 to R124, R128). -/
theorem cycleEvent_cases (s : State) :
    (s.frozen = true ∧ cycleEvent s = .next s) ∨
    (s.frozen = false ∧ s.fetchWord = none ∧
      cycleEvent s = .next (s.takeFault s.pc .fetchRange (firstOutOfRange s.pc.toNat))) ∨
    (∃ w, s.frozen = false ∧ s.fetchWord = some w ∧ decodeWord w = none ∧
      cycleEvent s = .next (execUnknown w s.advance)) ∨
    (∃ w i, s.frozen = false ∧ s.fetchWord = some w ∧ decodeWord w = some i ∧ cycleEvent s = exec i s.advance) := by
  unfold cycleEvent
  cases hf : s.frozen with
  | true => exact .inl ⟨rfl, rfl⟩
  | false =>
    cases hw : s.fetchWord with
    | none => exact .inr (.inl ⟨rfl, rfl, rfl⟩)
    | some w =>
      cases hi : decodeWord w with
      | none => exact .inr (.inr (.inl ⟨w, rfl, rfl, hi, by simp [executeWord, hi]⟩))
      | some i => exact .inr (.inr (.inr ⟨w, i, rfl, rfl, hi, by simp [executeWord, hi]⟩))

/-- A fetched word is the one decoding the two bytes at PC reads (20_memory.md R68). -/
theorem State.fetchWord_eq_some {s : State} {w : Word} (h : s.fetchWord = some w) :
    s.pc.toNat + 2 ≤ 0x1000 ∧ w = wordOfBytes (s.byte s.pc.toNat) (s.byte (s.pc.toNat + 1)) := by
  unfold State.fetchWord at h
  split at h
  · rename_i hr
    rcases (inRange_iff _ _).mp hr with h0 | h0
    · omega
    · exact ⟨h0, by simpa using h.symm⟩
  · cases h

end Sys2Proof.Machine
end

