-- ==== Sys2Proof/Laws/Frames.lean ====
section
/-!
SUPPORT. The frame of each shared operation: what it changes and that it changes nothing else. With them, the numbers the
operands stand for.
-/

namespace Sys2Proof.Machine

/-! ### Operands as numbers -/

theorem toNat_addrOperand (nnn : Addr12) : (addrOperand nnn).toNat = nnn.toNat := by
  have := nnn.isLt
  rw [addrOperand, BitVec.toNat_setWidth, Nat.mod_eq_of_lt (by omega)]

theorem toNat_wide (b : Byte) : (wide b).toNat = b.toNat := by
  have := b.isLt
  rw [wide, BitVec.toNat_setWidth, Nat.mod_eq_of_lt (by omega)]

/-- A timer after one Tick (60_exceptions.md R259). -/
theorem toNat_countDown (t : Byte) : (countDown t).toNat = t.toNat - 1 := by
  unfold countDown
  split
  · have := t.isLt
    rw [BitVec.toNat_sub]
    simp
    omega
  · omega

/-- A run that reaches above 0xFFF is out of range (20_memory.md R66). -/
theorem inRange_eq_false {a n : Nat} (h : 0x1000 < a + n) (h0 : n ≠ 0) : inRange a n = false := by
  rw [Bool.eq_false_iff, ne_eq, inRange_iff]
  omega

/-! ### Frames -/

theorem OnlyChanges.refl (w : Item → Prop) (s : State) : OnlyChanges w s s := by
  intro it _
  cases it <;> rfl

theorem OnlyChanges.mono {v w : Item → Prop} {s t : State} (hvw : ∀ it, v it → w it) (h : OnlyChanges v s t) :
    OnlyChanges w s t := fun it hn => h it (fun hv => hn (hvw it hv))

theorem Item.same_trans {it : Item} {s t u : State} (h : it.same s t) (h' : it.same t u) : it.same s u := by
  cases it <;> exact Eq.trans h' h

theorem OnlyChanges.trans {w : Item → Prop} {s t u : State} (h : OnlyChanges w s t) (h' : OnlyChanges w t u) :
    OnlyChanges w s u := fun it hn => Item.same_trans (h it hn) (h' it hn)

theorem State.setReg_frame (s : State) (x : Reg) (b : Byte) : OnlyChanges (· ∈ [.reg x]) s (s.setReg x b) := by
  intro it h
  cases it <;> simp_all [Item.same, State.reg_setReg, State.byte]

theorem State.setPC_frame (s : State) (a : Word) : OnlyChanges (· ∈ [.pc]) s (s.setPC a) := by
  intro it h
  cases it <;> simp_all [Item.same, State.byte]

theorem State.setFlagThenReg_frame (s : State) (c : Bool) (x : Reg) (b : Byte) :
    OnlyChanges (· ∈ [.reg x, .reg 15]) s (s.setFlagThenReg c x b) := by
  intro it h
  cases it <;> simp_all [Item.same, State.reg_setFlagThenReg, State.byte, regVF]

/-- A run of bytes stored changes no byte outside the run. -/
theorem State.storeRun_frame (s : State) (a : Nat) (ws : List Byte) :
    OnlyChanges (Item.inRun a ws.length) s (s.setMem (Memory.writeRun s.mem a ws)) := by
  intro it h
  cases it with
  | byte b =>
    simp only [Item.inRun, Item.byte.injEq, exists_eq_left', not_and, Item.same] at h ⊢
    rw [State.byte_setMem_writeRun, if_neg]
    exact fun hb => h hb.1 hb.2
  | _ => rfl

/-- What `skip` can do (41_flow.md R140). -/
theorem State.skipIf_spec (s : State) (c : Bool) :
    (c = true → (s.skipIf c).pc.toNat = (s.pc.toNat + 2) % 65536) ∧ (c = false → (s.skipIf c).pc = s.pc) ∧
      OnlyChanges (· ∈ [.pc]) s (s.skipIf c) := by
  unfold State.skipIf
  cases c
  · exact ⟨nofun, fun _ => rfl, OnlyChanges.refl _ _⟩
  · exact ⟨fun _ => by simp [State.advance, BitVec.toNat_add], nofun, State.setPC_frame _ _⟩

/-- A fault raised in the execute phase (60_exceptions.md R254). -/
theorem State.raise_faultedFrom (s : State) (cause : FaultCause) (info : Nat) :
    FaultedFrom s cause info (s.raise cause info) := by
  refine ⟨rfl, rfl, fun it h => ?_⟩
  cases it <;> simp_all [Item.same, State.byte]

end Sys2Proof.Machine
end

