-- ==== Sys2Proof/Laws/PerInstr.lean ====
section
/-!
SUPPORT. One law per instruction: the word of an instruction has the fixed bits of its row of the opcode map
(30_encoding.md R96), whatever its operands.
-/

namespace Sys2Proof

/-- The encoding of the instruction is selected by its own row's mask and match. -/
def Laws.TableRow.Statement (i : Instr) : Prop := i.row.selects (encode i) = true

/-- A word of format NNN is selected by the row of its top nibble. -/
theorem selects_encodeNNN (op : BitVec 4) (nnn : Addr12) :
    OpcodeRow.selects ⟨0xF000, encodeNNN op 0⟩ (encodeNNN op nnn) = true := by
  simp only [OpcodeRow.selects, and_maskF000, fieldOp_encodeNNN, beq_self_eq_true]

/-- A word of format XKK is selected by the row of its top nibble. -/
theorem selects_encodeXKK (op : BitVec 4) (x : Reg) (kk : Byte) :
    OpcodeRow.selects ⟨0xF000, encodeNNN op 0⟩ (encodeXKK op x kk) = true := by
  simp only [OpcodeRow.selects, and_maskF000, fieldOp_encodeXKK, beq_self_eq_true]

/-- A word of format X is selected by the row of its top nibble and low byte. -/
theorem selects_encodeX (op : BitVec 4) (x : Reg) (kk : Byte) :
    OpcodeRow.selects ⟨0xF0FF, encodeXKK op 0 kk⟩ (encodeXKK op x kk) = true := by
  simp only [OpcodeRow.selects, and_maskF0FF, fieldOp_encodeXKK, fieldKK_encodeXKK, beq_self_eq_true]

/-- A word of format XY is selected by the row of its top and low nibbles. -/
theorem selects_encodeXY (op : BitVec 4) (x y : Reg) (n : BitVec 4) :
    OpcodeRow.selects ⟨0xF00F, encodeXYN op 0 0 n⟩ (encodeXYN op x y n) = true := by
  simp only [OpcodeRow.selects, and_maskF00F, fieldOp_encodeXYN, fieldN_encodeXYN, beq_self_eq_true]

/-- A word of format XYN is selected by the row of its top nibble. -/
theorem selects_encodeXYN (op : BitVec 4) (x y : Reg) (n : BitVec 4) :
    OpcodeRow.selects ⟨0xF000, encodeNNN op 0⟩ (encodeXYN op x y n) = true := by
  simp only [OpcodeRow.selects, and_maskF000, fieldOp_encodeXYN, beq_self_eq_true]

theorem Laws.TableRow.cls : Laws.TableRow.Statement (.cls) := rfl

theorem Laws.TableRow.ret : Laws.TableRow.Statement (.ret) := rfl

theorem Laws.TableRow.jp (nnn : Addr12) : Laws.TableRow.Statement (.jp nnn) := selects_encodeNNN _ _

theorem Laws.TableRow.call (nnn : Addr12) : Laws.TableRow.Statement (.call nnn) := selects_encodeNNN _ _

theorem Laws.TableRow.seByte (x : Reg) (kk : Byte) : Laws.TableRow.Statement (.seByte x kk) := selects_encodeXKK _ _ _

theorem Laws.TableRow.sneByte (x : Reg) (kk : Byte) : Laws.TableRow.Statement (.sneByte x kk) := selects_encodeXKK _ _ _

theorem Laws.TableRow.seReg (x : Reg) (y : Reg) : Laws.TableRow.Statement (.seReg x y) := selects_encodeXY _ _ _ _

theorem Laws.TableRow.ldByte (x : Reg) (kk : Byte) : Laws.TableRow.Statement (.ldByte x kk) := selects_encodeXKK _ _ _

theorem Laws.TableRow.addByte (x : Reg) (kk : Byte) : Laws.TableRow.Statement (.addByte x kk) := selects_encodeXKK _ _ _

theorem Laws.TableRow.ldReg (x : Reg) (y : Reg) : Laws.TableRow.Statement (.ldReg x y) := selects_encodeXY _ _ _ _

theorem Laws.TableRow.orReg (x : Reg) (y : Reg) : Laws.TableRow.Statement (.orReg x y) := selects_encodeXY _ _ _ _

theorem Laws.TableRow.andReg (x : Reg) (y : Reg) : Laws.TableRow.Statement (.andReg x y) := selects_encodeXY _ _ _ _

theorem Laws.TableRow.xorReg (x : Reg) (y : Reg) : Laws.TableRow.Statement (.xorReg x y) := selects_encodeXY _ _ _ _

theorem Laws.TableRow.addReg (x : Reg) (y : Reg) : Laws.TableRow.Statement (.addReg x y) := selects_encodeXY _ _ _ _

theorem Laws.TableRow.subReg (x : Reg) (y : Reg) : Laws.TableRow.Statement (.subReg x y) := selects_encodeXY _ _ _ _

theorem Laws.TableRow.shr (x : Reg) (y : Reg) : Laws.TableRow.Statement (.shr x y) := selects_encodeXY _ _ _ _

theorem Laws.TableRow.subnReg (x : Reg) (y : Reg) : Laws.TableRow.Statement (.subnReg x y) := selects_encodeXY _ _ _ _

theorem Laws.TableRow.shl (x : Reg) (y : Reg) : Laws.TableRow.Statement (.shl x y) := selects_encodeXY _ _ _ _

theorem Laws.TableRow.sneReg (x : Reg) (y : Reg) : Laws.TableRow.Statement (.sneReg x y) := selects_encodeXY _ _ _ _

theorem Laws.TableRow.ldI (nnn : Addr12) : Laws.TableRow.Statement (.ldI nnn) := selects_encodeNNN _ _

theorem Laws.TableRow.jpV0 (nnn : Addr12) : Laws.TableRow.Statement (.jpV0 nnn) := selects_encodeNNN _ _

theorem Laws.TableRow.rnd (x : Reg) (kk : Byte) : Laws.TableRow.Statement (.rnd x kk) := selects_encodeXKK _ _ _

theorem Laws.TableRow.drw (x : Reg) (y : Reg) (n : Fin 16) : Laws.TableRow.Statement (.drw x y n) := selects_encodeXYN _ _ _ _

theorem Laws.TableRow.skp (x : Reg) : Laws.TableRow.Statement (.skp x) := selects_encodeX _ _ _

theorem Laws.TableRow.sknp (x : Reg) : Laws.TableRow.Statement (.sknp x) := selects_encodeX _ _ _

theorem Laws.TableRow.ldVxDT (x : Reg) : Laws.TableRow.Statement (.ldVxDT x) := selects_encodeX _ _ _

theorem Laws.TableRow.ldVxK (x : Reg) : Laws.TableRow.Statement (.ldVxK x) := selects_encodeX _ _ _

theorem Laws.TableRow.ldDTVx (x : Reg) : Laws.TableRow.Statement (.ldDTVx x) := selects_encodeX _ _ _

theorem Laws.TableRow.ldSTVx (x : Reg) : Laws.TableRow.Statement (.ldSTVx x) := selects_encodeX _ _ _

theorem Laws.TableRow.addIVx (x : Reg) : Laws.TableRow.Statement (.addIVx x) := selects_encodeX _ _ _

theorem Laws.TableRow.ldIF (x : Reg) : Laws.TableRow.Statement (.ldIF x) := selects_encodeX _ _ _

theorem Laws.TableRow.ldB (x : Reg) : Laws.TableRow.Statement (.ldB x) := selects_encodeX _ _ _

theorem Laws.TableRow.storeRegs (x : Reg) : Laws.TableRow.Statement (.storeRegs x) := selects_encodeX _ _ _

theorem Laws.TableRow.loadRegs (x : Reg) : Laws.TableRow.Statement (.loadRegs x) := selects_encodeX _ _ _

end Sys2Proof
end

