-- ==== Sys2Proof/Laws/Run.lean ====
section
/-!
SUPPORT. Runs of many steps, taken apart one step at a time, in the model's own names.
-/

namespace Sys2Proof.Machine

/-- A run of any machine whose first step answers a next state. -/
theorem core_run_succ (M : Host.Core) {k : Nat} {s u : M.State} (h : M.step s = .next u) :
    M.run (k + 1) s = M.run k u := by
  conv => lhs; unfold Host.Core.run
  simp only [h]

/-- A run of any machine that ends in a next state took a first step to one. -/
theorem core_run_inv (M : Host.Core) {k : Nat} {s u : M.State} (h : M.run (k + 1) s = .next u) :
    ∃ t, M.step s = .next t ∧ M.run k t = .next u := by
  cases e : M.step s with
  | next t => rw [core_run_succ M e] at h; exact ⟨t, rfl, h⟩
  | fault r => simp [Host.Core.run, e] at h
  | refused r => simp [Host.Core.run, e] at h

/-- A run of no steps. -/
theorem run_zero (s : State) : Sys2Proof.core.run 0 s = .next s := rfl

/-- A run whose first step answers a next state. -/
theorem run_succ {k : Nat} {s t : State} (h : step s = .next t) :
    Sys2Proof.core.run (k + 1) s = Sys2Proof.core.run k t := core_run_succ Sys2Proof.core h

/-- A run that ends in a next state took a first step to one. -/
theorem run_succ_inv {k : Nat} {s u : State} (h : Sys2Proof.core.run (k + 1) s = .next u) :
    ∃ t, step s = .next t ∧ Sys2Proof.core.run k t = .next u := core_run_inv Sys2Proof.core h

end Sys2Proof.Machine
end

