-- ==== Sys2Proof/Laws/Screen.lean ====
section
/-!
SUPPORT. The display cell by cell: one flip, one sprite row, the whole blit (44_display.md R211, R212).
-/

namespace Sys2Proof.Machine

@[simp] theorem Display.pixel_blank (r c : Nat) : Display.pixel Display.blank r c = false := by
  simp [Display.pixel, Display.blank]

/-- One cell flipped, every other cell as it was. -/
theorem Display.pixel_flip (d : Display) (r c r' c' : Nat) (hr : r < 32) (hc : c < 64) :
    Display.pixel (Display.flip d r c) r' c' =
      if r' = r ∧ c' = c then !(Display.pixel d r c) else Display.pixel d r' c' := by
  unfold Display.flip Display.pixel
  simp only [hr, hc, and_self, dite_true]
  by_cases h : r' < 32 ∧ c' < 64
  · simp only [h, and_self, dite_true]
    by_cases h1 : r' = r
    · subst h1
      by_cases h2 : c' = c
      · subst h2; simp
      · simp [h2, Ne.symm h2]
    · simp [h1, Ne.symm h1]
  · have : ¬ (r' = r ∧ c' = c) := by rintro ⟨rfl, rfl⟩; exact h ⟨hr, hc⟩
    simp [h, this]

/-- The bit of a sprite row at display column c, drawn from column x0. -/
def rowCovers (row : Byte) (x0 c : Nat) : Bool := decide (x0 ≤ c ∧ c < x0 + 8) && row.getLsbD (7 - (c - x0))

/-- The first k sprite columns of a row, cell by cell, with the collision so far. -/
theorem blitRow_columns (row : Byte) (x0 py : Nat) (hpy : py ≤ 31) (d : Display) (hit : Bool) : ∀ k, k ≤ 8 →
    let acc := (List.range k).foldl (blitCell row x0 py) (d, hit)
    (∀ r c, c < 64 → Display.pixel acc.1 r c =
      (Display.pixel d r c ^^ (decide (r = py ∧ c < x0 + k) && rowCovers row x0 c))) ∧
    (acc.2 = true ↔ hit = true ∨
      ∃ c, c < 64 ∧ c < x0 + k ∧ rowCovers row x0 c = true ∧ Display.pixel d py c = true)
  | 0, _ => by
    refine ⟨fun r c _ => ?_, ?_⟩
    · by_cases h : c < x0
      · simp [rowCovers, show ¬ x0 ≤ c by omega]
      · simp [h]
    · simp only [List.range_zero, List.foldl_nil, Nat.add_zero]
      constructor
      · exact .inl
      · rintro (h | ⟨c, _, h2, h3, _⟩)
        · exact h
        · simp [rowCovers] at h3; omega
  | k + 1, hk => by
    obtain ⟨ihp, ihh⟩ := blitRow_columns row x0 py hpy d hit k (by omega)
    simp only [List.range_succ, List.foldl_append, List.foldl_cons, List.foldl_nil]
    generalize (List.range k).foldl (blitCell row x0 py) (d, hit) = acc at ihp ihh ⊢
    have hcov : x0 + k < 64 → rowCovers row x0 (x0 + k) = row.getLsbD (7 - k) := fun _ => by
      simp [rowCovers]; omega
    unfold blitCell
    split
    · rename_i hb
      have h64 : x0 + k < 64 := by omega
      have hrow : rowCovers row x0 (x0 + k) = true := by rw [hcov h64]; exact hb.2
      have hold : Display.pixel acc.1 py (x0 + k) = Display.pixel d py (x0 + k) := by
        rw [ihp _ _ h64]; simp
      refine ⟨fun r c hc => ?_, ?_⟩
      · rw [Display.pixel_flip _ _ _ _ _ (by omega) h64]
        by_cases hcell : r = py ∧ c = x0 + k
        · obtain ⟨rfl, rfl⟩ := hcell
          simp [hold, hrow]
        · rw [if_neg hcell, ihp r c hc]
          congr 2
          apply decide_eq_decide.mpr
          constructor
          · rintro ⟨h1, h2⟩; exact ⟨h1, by omega⟩
          · rintro ⟨h1, h2⟩
            refine ⟨h1, ?_⟩
            rcases Nat.lt_or_ge c (x0 + k) with h | h
            · exact h
            · exact absurd ⟨h1, by omega⟩ hcell
      · simp only [Bool.or_eq_true, ihh, hold]
        constructor
        · rintro ((h | ⟨c, h1, h2, h3, h4⟩) | h)
          · exact .inl h
          · exact .inr ⟨c, h1, by omega, h3, h4⟩
          · exact .inr ⟨x0 + k, h64, by omega, hrow, h⟩
        · rintro (h | ⟨c, h1, h2, h3, h4⟩)
          · exact .inl (.inl h)
          · rcases Nat.lt_or_ge c (x0 + k) with h | h
            · exact .inl (.inr ⟨c, h1, h, h3, h4⟩)
            · obtain rfl : c = x0 + k := by omega
              exact .inr h4
    · rename_i hb
      have hno : ∀ c, c < 64 → c = x0 + k → rowCovers row x0 c = false := by
        rintro c hc rfl
        rw [hcov hc]
        simpa using fun h => hb ⟨by omega, h⟩
      refine ⟨fun r c hc => ?_, ?_⟩
      · rw [ihp r c hc]
        rcases Nat.lt_trichotomy c (x0 + k) with h | h | h
        · simp [h, show c < x0 + (k + 1) by omega]
        · simp [hno c hc h]
        · simp [show ¬ c < x0 + k by omega, show ¬ c < x0 + (k + 1) by omega]
      · rw [ihh]
        constructor
        · rintro (h | ⟨c, h1, h2, h3⟩)
          · exact .inl h
          · exact .inr ⟨c, h1, by omega, h3⟩
        · rintro (h | ⟨c, h1, h2, h3, h4⟩)
          · exact .inl h
          · rcases Nat.lt_or_ge c (x0 + k) with h | h
            · exact .inr ⟨c, h1, h, h3, h4⟩
            · rw [hno c h1 (by omega)] at h3; cases h3

/-- One sprite row, cell by cell. -/
theorem pixel_blitRow (x0 py : Nat) (row : Byte) (d : Display) (hit : Bool) (r c : Nat) (hr : r < 32) (hc : c < 64) :
    Display.pixel (blitRow x0 py row (d, hit)).1 r c =
      (Display.pixel d r c ^^ (decide (r = py) && rowCovers row x0 c)) := by
  unfold blitRow
  split
  · rename_i h
    rw [(blitRow_columns row x0 py h d hit 8 (by omega)).1 r c hc]
    congr 1
    by_cases h8 : c < x0 + 8
    · simp [h8]
    · simp [rowCovers, h8]
  · have : r ≠ py := by omega
    simp [this]

/-- The collision of one sprite row. -/
theorem hit_blitRow (x0 py : Nat) (row : Byte) (d : Display) (hit : Bool) :
    (blitRow x0 py row (d, hit)).2 = true ↔
      hit = true ∨ ∃ c, py < 32 ∧ c < 64 ∧ rowCovers row x0 c = true ∧ Display.pixel d py c = true := by
  unfold blitRow
  split
  · rename_i h
    rw [(blitRow_columns row x0 py h d hit 8 (by omega)).2]
    constructor
    · rintro (h1 | ⟨c, h1, _, h3⟩)
      · exact .inl h1
      · exact .inr ⟨c, by omega, h1, h3⟩
    · rintro (h1 | ⟨c, _, h1, h3, h4⟩)
      · exact .inl h1
      · exact .inr ⟨c, h1, by simp [rowCovers] at h3; omega, h3, h4⟩
  · constructor
    · exact .inl
    · rintro (h1 | ⟨c, h1, _⟩)
      · exact h1
      · omega

theorem spriteCovers_nil (x0 y0 r c : Nat) : spriteCovers x0 y0 [] r c = false := by
  simp [spriteCovers]

theorem spriteCovers_cons (x0 y0 : Nat) (row : Byte) (rows : List Byte) (r c : Nat) :
    spriteCovers x0 y0 (row :: rows) r c =
      if r = y0 then rowCovers row x0 c else spriteCovers x0 (y0 + 1) rows r c := by
  by_cases h : r = y0
  · subst h
    simp [spriteCovers, rowCovers]
  · rw [if_neg h]
    rcases Nat.lt_or_ge r y0 with hlt | hge
    · simp [spriteCovers, show ¬ y0 ≤ r by omega, show ¬ y0 + 1 ≤ r by omega]
    · obtain ⟨k, rfl⟩ : ∃ k, r = y0 + 1 + k := ⟨r - (y0 + 1), by omega⟩
      simp only [spriteCovers, List.length_cons, show y0 + 1 + k - y0 = k + 1 by omega,
        show y0 + 1 + k - (y0 + 1) = k by omega, List.getD_cons_succ]
      congr 1
      apply decide_eq_decide.mpr
      omega

/-- The whole blit: each cell the sprite covers is flipped, and VF says that a covered cell was on
(44_display.md R211). -/
theorem blitRows_spec (x0 : Nat) : ∀ (rows : List Byte) (py : Nat) (d : Display) (hit : Bool),
    (∀ r c, r < 32 → c < 64 → Display.pixel (blitRows x0 py rows (d, hit)).1 r c =
      (Display.pixel d r c ^^ spriteCovers x0 py rows r c)) ∧
    ((blitRows x0 py rows (d, hit)).2 = true ↔ hit = true ∨
      ∃ r c, r < 32 ∧ c < 64 ∧ spriteCovers x0 py rows r c = true ∧ Display.pixel d r c = true)
  | [], py, d, hit => by simp [blitRows, spriteCovers_nil]
  | row :: rows, py, d, hit => by
    obtain ⟨ihp, ihh⟩ := blitRows_spec x0 rows (py + 1) (blitRow x0 py row (d, hit)).1 (blitRow x0 py row (d, hit)).2
    have hlow : ∀ c, spriteCovers x0 (py + 1) rows py c = false := fun c => by
      simp [spriteCovers]
    refine ⟨fun r c hr hc => ?_, ?_⟩
    · rw [blitRows, ihp r c hr hc, pixel_blitRow _ _ _ _ _ _ _ hr hc, spriteCovers_cons]
      by_cases h : r = py
      · subst h; simp [hlow]
      · simp [h]
    · rw [blitRows, ihh, hit_blitRow]
      constructor
      · rintro ((h | ⟨c, h1, h2, h3, h4⟩) | ⟨r, c, h1, h2, h3, h4⟩)
        · exact .inl h
        · exact .inr ⟨py, c, h1, h2, by rw [spriteCovers_cons, if_pos rfl]; exact h3, h4⟩
        · have hne : r ≠ py := by rintro rfl; rw [hlow] at h3; cases h3
          rw [pixel_blitRow _ _ _ _ _ _ _ h1 h2] at h4
          exact .inr ⟨r, c, h1, h2, by rw [spriteCovers_cons, if_neg hne]; exact h3, by simpa [hne] using h4⟩
      · rintro (h | ⟨r, c, h1, h2, h3, h4⟩)
        · exact .inl (.inl h)
        · rw [spriteCovers_cons] at h3
          by_cases h : r = py
          · subst h; exact .inl (.inr ⟨c, h1, h2, by simpa using h3, h4⟩)
          · rw [if_neg h] at h3
            exact .inr ⟨r, c, h1, h2, h3, by rw [pixel_blitRow _ _ _ _ _ _ _ h1 h2]; simpa [h] using h4⟩

end Sys2Proof.Machine
end

