-- ==== Sys2Proof/Tests/Slice0.lean ====
section
/-!
SUPPORT. Tests of one step each, and for every obligation with hypotheses a state and operands that meet them. The expected
results come from 95_test_vectors.md (vector numbers in the comments) or from the encodings of 30_encoding.md R96.
-/

namespace Sys2Proof.Tests

open Sys2Proof.Machine

/-! ### Helpers -/

/-- Whether the step that runs the word from the state, with the word placed at PC, answers a next state with the
property. -/
def after (w : Nat) (s : State) (p : State → Bool) : Bool :=
  match step (s.withFetchWord 16 w) with
  | .next t => p t
  | _ => false

/-- The reset state with some registers set. -/
def withRegs (rs : List (Reg × Byte)) (s : State := State.reset) : State := rs.foldl (fun t r => t.setReg r.1 r.2) s

/-- The reset state with bytes of memory set. -/
def withBytes (a : Nat) (bs : List Byte) (s : State := State.reset) : State := s.setMem (Memory.writeRun s.mem a bs)

/-- The state has FAULT = (cause, info). -/
def faulted (t : State) (cause : FaultCause) (info : Nat) : Bool := t.fault == ⟨cause, info⟩

/-! ### WellFormed -/

-- X7, X8
theorem test_wellFormed_image_longest : imageWellFormed (List.replicate 3584 0) = true := by
  rw [imageWellFormed, List.length_replicate]; decide
theorem test_illFormed_image_too_long : imageWellFormed (List.replicate 3585 0) = false := by
  rw [imageWellFormed, List.length_replicate]; decide
theorem test_illFormed_image_refused : resetEvent defaultFont (List.replicate 3585 0) = .refused .programTooLong := by
  rw [resetEvent, if_neg (by rw [test_illFormed_image_too_long]; decide)]
-- 30_encoding.md R102: no instruction is ill-formed
theorem test_wellFormed_instr (x y : Reg) (n : Fin 16) : (Instr.drw x y n).wellFormed = true := rfl
-- 30_encoding.md R90: an instruction is two bytes
theorem test_decode_one_byte_refused : decode [0x00] = .error .tooShort := rfl
-- W5
theorem test_decode_unknown_refused : decode [0x00, 0x00] = .error (.unknownWord 0x0000) := rfl

/-! ### Decoding, one written-out word for each constructor (W1 to W28) -/

theorem test_decode_group0 : decodeTableWord 16 0x00E0 = some .cls ∧ decodeTableWord 16 0x00EE = some .ret ∧
    decodeTableWord 16 0x05E0 = some .cls ∧ decodeTableWord 16 0x0AEE = some .ret := by decide
theorem test_decode_jp : decodeTableWord 16 0x1ABC = some (.jp 0xABC) := by decide
theorem test_decode_call : decodeTableWord 16 0x2FFF = some (.call 0xFFF) := by decide
theorem test_decode_seByte : decodeTableWord 16 0x3A7F = some (.seByte 10 0x7F) := by decide
theorem test_decode_sneByte : decodeTableWord 16 0x4B00 = some (.sneByte 11 0x00) := by decide
theorem test_decode_seReg : decodeTableWord 16 0x5CD0 = some (.seReg 12 13) := by decide
theorem test_decode_ldByte : decodeTableWord 16 0x6E42 = some (.ldByte 14 0x42) := by decide
theorem test_decode_addByte : decodeTableWord 16 0x7001 = some (.addByte 0 0x01) := by decide
theorem test_decode_ldReg : decodeTableWord 16 0x8AB0 = some (.ldReg 10 11) := by decide
theorem test_decode_orReg : decodeTableWord 16 0x8AB1 = some (.orReg 10 11) := by decide
theorem test_decode_andReg : decodeTableWord 16 0x8AB2 = some (.andReg 10 11) := by decide
theorem test_decode_xorReg : decodeTableWord 16 0x8AB3 = some (.xorReg 10 11) := by decide
theorem test_decode_addReg : decodeTableWord 16 0x8AB4 = some (.addReg 10 11) := by decide
theorem test_decode_subReg : decodeTableWord 16 0x8AB5 = some (.subReg 10 11) := by decide
theorem test_decode_shr : decodeTableWord 16 0x8AB6 = some (.shr 10 11) := by decide
theorem test_decode_subnReg : decodeTableWord 16 0x8AB7 = some (.subnReg 10 11) := by decide
theorem test_decode_shl : decodeTableWord 16 0x8ABE = some (.shl 10 11) := by decide
theorem test_decode_sneReg : decodeTableWord 16 0x9120 = some (.sneReg 1 2) := by decide
theorem test_decode_ldI : decodeTableWord 16 0xA123 = some (.ldI 0x123) := by decide
theorem test_decode_jpV0 : decodeTableWord 16 0xB400 = some (.jpV0 0x400) := by decide
theorem test_decode_rnd : decodeTableWord 16 0xC1F0 = some (.rnd 1 0xF0) := by decide
theorem test_decode_drw : decodeTableWord 16 0xD125 = some (.drw 1 2 5) := by decide
theorem test_decode_skp : decodeTableWord 16 0xE19E = some (.skp 1) := by decide
theorem test_decode_sknp : decodeTableWord 16 0xE1A1 = some (.sknp 1) := by decide
theorem test_decode_ldVxDT : decodeTableWord 16 0xF307 = some (.ldVxDT 3) := by decide
theorem test_decode_ldVxK : decodeTableWord 16 0xF30A = some (.ldVxK 3) := by decide
theorem test_decode_ldDTVx : decodeTableWord 16 0xF315 = some (.ldDTVx 3) := by decide
theorem test_decode_ldSTVx : decodeTableWord 16 0xF318 = some (.ldSTVx 3) := by decide
theorem test_decode_addIVx : decodeTableWord 16 0xF31E = some (.addIVx 3) := by decide
theorem test_decode_ldIF : decodeTableWord 16 0xF329 = some (.ldIF 3) := by decide
theorem test_decode_ldB : decodeTableWord 16 0xF333 = some (.ldB 3) := by decide
theorem test_decode_storeRegs : decodeTableWord 16 0xF355 = some (.storeRegs 3) := by decide
theorem test_decode_loadRegs : decodeTableWord 16 0xF365 = some (.loadRegs 3) := by decide
-- W6, W7, W13, W18, W20, W27, W29, W30
theorem test_decode_unknown : ∀ w ∈ [0x0123, 0x00E1, 0x5CD1, 0x8AB8, 0x8ABD, 0x8ABF, 0x912F, 0xE19F, 0xE1A0, 0xF300, 0xF375,
    0xFFFF], decodeTableWord 16 w = none := by decide
-- 30_encoding.md R92: the words of two formats, field by field
theorem test_encode : encode (.drw 1 2 5) = 0xD125 ∧ encode (.jpV0 0x400) = 0xB400 ∧ encode (.shl 10 11) = 0x8ABE := by
  decide
-- 20_memory.md R68: the high byte at the lower address
theorem test_bytes_big_endian : bytesOfWord 0x1ABC = [0x1A, 0xBC] := by decide

/-! ### Control transfer (F1 to F22) -/

theorem test_ret_pops : after 0x00EE { State.reset with pc := 0x20C, sp := 1, stack := State.reset.stack.set 0 0x206 }
    (fun t => t.pc == 0x206 && t.sp == 0 && t.stack[0] == 0x206) = true := by decide
theorem test_ret_empty : after 0x00EE { State.reset with pc := 0x20C } (fun t => t.pc == 0x20E && t.sp == 0) = true := by
  decide
theorem test_jp : after 0x1204 { State.reset with pc := 0x20A } (fun t => t.pc == 0x204) = true := by decide
theorem test_call_pushes : after 0x2300 { State.reset with sp := 15 }
    (fun t => t.stack[15] == 0x202 && t.sp == 16 && t.pc == 0x300) = true := by decide
theorem test_call_full : after 0x2300 { State.reset with sp := 16, stack := Vector.replicate 16 0x111 }
    (fun t => t.pc == 0x202 && t.sp == 16 && t.stack[15] == 0x111) = true := by decide
theorem test_seByte : after 0x3100 State.reset (fun t => t.pc == 0x204) = true := by decide
theorem test_sneByte : after 0x4205 (withRegs [(2, 5)]) (fun t => t.pc == 0x202) = true := by decide
theorem test_seReg : after 0x5340 (withRegs [(3, 0x7F), (4, 0x7E)]) (fun t => t.pc == 0x202) = true := by decide
theorem test_sneReg : after 0x9340 (withRegs [(3, 1), (4, 2)]) (fun t => t.pc == 0x204) = true := by decide
theorem test_jpV0_not_masked : after 0xBFFF (withRegs [(0, 0xFF)]) (fun t => t.pc == 0x10FE) = true := by decide
theorem test_jpV0_uses_V0 : after 0xB2FE (withRegs [(2, 0x55)]) (fun t => t.pc == 0x2FE) = true := by decide

/-! ### Loads and the ALU (A1 to A53) -/

theorem test_ldByte : after 0x6F05 State.reset (fun t => t.reg 15 == 5 && t.pc == 0x202) = true := by decide
theorem test_addByte_wraps : after 0x71FF (withRegs [(1, 5), (15, 7)]) (fun t => t.reg 1 == 4 && t.reg 15 == 7) = true := by
  decide
theorem test_ldReg : after 0x8120 (withRegs [(2, 0x99)]) (fun t => t.reg 1 == 0x99) = true := by decide
theorem test_orReg : after 0x8121 (withRegs [(1, 0xF0), (2, 0x0F), (15, 7)])
    (fun t => t.reg 1 == 0xFF && t.reg 15 == 7) = true := by decide
theorem test_andReg : after 0x8122 (withRegs [(1, 0xF0), (2, 0x3C)]) (fun t => t.reg 1 == 0x30) = true := by decide
theorem test_xorReg : after 0x8123 (withRegs [(1, 0xF0), (2, 0x3C)]) (fun t => t.reg 1 == 0xCC) = true := by decide
theorem test_addReg_carry : after 0x81F4 (withRegs [(1, 0xFF), (15, 1)])
    (fun t => t.reg 1 == 0 && t.reg 15 == 1) = true := by decide
theorem test_addReg_into_VF : after 0x8FF4 (withRegs [(15, 0x90)]) (fun t => t.reg 15 == 0x20) = true := by decide
theorem test_subReg_equal : after 0x8125 (withRegs [(1, 7), (2, 7)]) (fun t => t.reg 1 == 0 && t.reg 15 == 1) = true := by
  decide
theorem test_subReg_borrow : after 0x8125 (withRegs [(1, 5), (2, 10), (15, 1)])
    (fun t => t.reg 1 == 0xFB && t.reg 15 == 0) = true := by decide
theorem test_subnReg_borrow : after 0x8127 (withRegs [(1, 10), (2, 5), (15, 1)])
    (fun t => t.reg 1 == 0xFB && t.reg 15 == 0) = true := by decide
theorem test_subnReg_into_VF : after 0x8F27 (withRegs [(15, 3), (2, 5)]) (fun t => t.reg 15 == 2) = true := by decide
theorem test_shr_ignores_Vy : after 0x8126 (withRegs [(1, 4), (2, 0xFF), (15, 1)])
    (fun t => t.reg 1 == 2 && t.reg 15 == 0) = true := by decide
theorem test_shr_into_VF : after 0x8F06 (withRegs [(15, 3)]) (fun t => t.reg 15 == 1) = true := by decide
theorem test_shl : after 0x810E (withRegs [(1, 0x81)]) (fun t => t.reg 1 == 2 && t.reg 15 == 1) = true := by decide
theorem test_shl_into_VF : after 0x8F0E (withRegs [(15, 0x81)]) (fun t => t.reg 15 == 2) = true := by decide
-- A50, A51: the byte drawn is free, so the expected value is stated for whatever it is
theorem test_rnd : Completes (exec (.rnd 3 0x0F) State.reset)
    (fun t => t.reg 3 = Config.randomByte 0 &&& 0x0F ∧ t.draws = 1) := ⟨_, rfl, rfl, rfl⟩

/-! ### The address register and memory transfers (M1 to M25) -/

theorem test_ldI : after 0xAFFF State.reset (fun t => t.i == 0xFFF) = true := by decide
theorem test_addIVx_beyond : after 0xF21E (withRegs [(2, 1)] { State.reset with i := 0xFFF })
    (fun t => t.i == 0x1000 && t.reg 15 == 1) = true := by decide
theorem test_addIVx_wraps : after 0xF21E (withRegs [(2, 1), (15, 1)] { State.reset with i := 0xFFFF })
    (fun t => t.i == 0 && t.reg 15 == 0) = true := by decide
theorem test_ldIF_low_nibble : after 0xF429 (withRegs [(4, 0x1A)]) (fun t => t.i == 0x32) = true := by decide
theorem test_ldB : after 0xF033 (withRegs [(0, 0xEA)] { State.reset with i := 0x300 })
    (fun t => t.byte 0x300 == 2 && t.byte 0x301 == 3 && t.byte 0x302 == 4) = true := by decide
theorem test_ldB_fault : after 0xF033 (withRegs [(0, 0x64)] { State.reset with i := 0xFFE })
    (fun t => faulted t .writeRange 0x1000 && t.pc == 0x200 && t.byte 0xFFE == 0) = true := by decide
theorem test_storeRegs : after 0xF155 (withRegs [(0, 1), (1, 2)] { State.reset with i := 0xFFE })
    (fun t => t.byte 0xFFE == 1 && t.byte 0xFFF == 2) = true := by decide
theorem test_storeRegs_fault : after 0xF155 (withRegs [(0, 1), (1, 2)] { State.reset with i := 0xFFF })
    (fun t => faulted t .writeRange 0x1000 && t.pc == 0x200 && t.byte 0xFFF == 0) = true := by decide
theorem test_loadRegs : after 0xF265 (withBytes 0x300 [2, 3, 4, 5] { State.reset with i := 0x300 })
    (fun t => t.reg 0 == 2 && t.reg 2 == 4 && t.reg 3 == 0 && t.i == 0x300) = true := by decide
theorem test_loadRegs_fault : after 0xF165 (withRegs [(0, 7)] { State.reset with i := 0xFFF })
    (fun t => faulted t .readRange 0x1000 && t.pc == 0x200 && t.reg 0 == 7) = true := by decide

/-! ### Display (B1 to B15) -/

theorem test_cls : after 0x05E0 { State.reset with disp := Display.flip Display.blank 5 5 }
    (fun t => !Display.pixel t.disp 5 5 && t.trace == [.redraw]) = true := by decide
-- B4: columns 64, 65 and row 32 are clipped
theorem test_drw_clips : after 0xD012 (withRegs [(0, 62), (1, 31)] (withBytes 0x300 [0xF0, 0xF0] { State.reset with i := 0x300 }))
    (fun t => Display.pixel t.disp 31 62 && Display.pixel t.disp 31 63 && !Display.pixel t.disp 31 0 &&
      !Display.pixel t.disp 0 62 && t.reg 15 == 0) = true := by decide
-- B12: (2,4) turned on, (2,5) turned off
theorem test_drw_collides : after 0xD011 (withRegs [(0, 4), (1, 2)] (withBytes 0x300 [0xC0]
      { State.reset with i := 0x300, disp := Display.flip Display.blank 2 5 }))
    (fun t => Display.pixel t.disp 2 4 && !Display.pixel t.disp 2 5 && t.reg 15 == 1) = true := by decide

/-! ### Keys and timers (K1 to K17) -/

theorem test_skp : after 0xE59E (withRegs [(5, 10)] { State.reset with pc := 0x220, held := 0x400 })
    (fun t => t.pc == 0x224) = true := by decide
theorem test_skp_fault : after 0xE59E (withRegs [(5, 0x10)] { State.reset with held := 0xFFFF })
    (fun t => faulted t .keyIndex 0x10 && t.pc == 0x200) = true := by decide
theorem test_sknp : after 0xE5A1 (withRegs [(5, 10)] { State.reset with pc := 0x220, held := 0x400 })
    (fun t => t.pc == 0x222) = true := by decide
theorem test_sknp_fault : after 0xE5A1 (withRegs [(5, 0xFF)]) (fun t => faulted t .keyIndex 0xFF && t.pc == 0x200) = true := by
  decide
theorem test_ldVxK_waits : after 0xF10A (withRegs [(1, 9)] { State.reset with held := 0xFFFF })
    (fun t => t.pc == 0x200 && t.reg 1 == 9) = true := by decide
theorem test_ldVxK_lowest : after 0xF10A { State.reset with rel := 0x8008 } (fun t => t.reg 1 == 3 && t.pc == 0x202) = true := by
  decide
theorem test_ldVxDT : after 0xF207 { State.reset with dt := 6 } (fun t => t.reg 2 == 6) = true := by decide
theorem test_ldDTVx : after 0xF115 (withRegs [(1, 7)]) (fun t => t.dt == 7) = true := by decide
theorem test_ldSTVx : after 0xF118 (withRegs [(1, 3)]) (fun t => t.st == 3) = true := by decide
-- K15, K17
theorem test_tick : let t := tickEvent 0x0005 0x0002 { State.reset with dt := 2, held := 0xFFFF, rel := 0xFFFF }
    t.dt = 1 ∧ t.st = 0 ∧ t.held = 5 ∧ t.rel = 2 := by decide
theorem test_tick_frozen : let s := { State.reset with fault := ⟨.fetchRange, 0x1000⟩, dt := 5 }
    tickEvent 0xFFFF 0xFFFF s = s := rfl

-- 40_cycle.md R126: the stop is sampled after a Tick, so not right after Reset
theorem test_mayStop_not_at_reset : ¬ State.reset.mayStop := fun h => Nat.lt_irrefl 0 h.1
theorem test_mayStop_after_tick : Completes (step { State.reset with cyclesLeft := 0 }) State.mayStop :=
  ⟨_, rfl, by decide, rfl⟩

/-! ### Fetch, faults and reset (X1 to X9) -/

theorem test_fetch_last_word : after 0x6001 { State.reset with pc := 0xFFE } (fun t => t.reg 0 == 1 && t.pc == 0x1000) = true := by
  decide
theorem test_fetch_fault : cycleEvent { State.reset with pc := 0xABCD } =
    .next { State.reset with pc := 0xABCD, fault := ⟨.fetchRange, 0xABCD⟩ } := rfl
-- F23: an odd PC
theorem test_fetch_odd : after 0x6001 { State.reset with pc := 0x201 } (fun t => t.reg 0 == 1 && t.pc == 0x203) = true := by decide
theorem test_unknown : after 0x5341 (withRegs [(3, 1), (4, 1)])
    (fun t => t.pc == 0x202 && t.trace == [.illegal 0x200 0x5341]) = true := by decide
-- X9
theorem test_reset_loads : resetEvent defaultFont [0x12, 0x00] = .next (withBytes 0x200 [0x12, 0x00]) := by
  have h : resetMemory defaultFont [0x12, 0x00] = [(0x200, 0x12)] := by decide
  rw [resetEvent, if_pos (by decide), h]
  rfl

/-! ### For every obligation with hypotheses, inputs that meet them; one for each clause, at the ends of its range -/

/-- A state about to run the word: one cycle of the period left, and the word at PC. -/
def ready (w : Nat) (s : State := State.reset) : State := s.withFetchWord 16 w

theorem witness_EncodeDecodeRoundTrip : decodeWord 0x05E0 = some .cls ∧ decodeWord 0x8AB6 = some (.shr 10 11) := by decide
theorem witness_OpcodeRowsDisjoint :
    (Instr.shr 1 2).row.selects 0x8126 = true ∧ (Instr.shr 3 4).row.selects 0x8126 = true := by decide
theorem witness_UnknownWordsAreTheListedOnes :
    decodeWord 0x0000 = none ∧ decodeWord 0x5001 = none ∧ decodeWord 0x800F = none ∧ decodeWord 0x900F = none ∧
      decodeWord 0xE0A0 = none ∧ decodeWord 0xF066 = none ∧ decodeWord 0x00E0 ≠ none := by decide
theorem witness_StepRunsDecodedInstruction : let s := ready 0x6A2B
    s.running ∧ s.cyclesLeft = 0 + 1 ∧ s.pc.toNat + 2 ≤ 0x1000 ∧
      decode (Memory.readRun s.mem s.pc.toNat 2) = .ok (.ldByte 10 0x2B, []) := ⟨rfl, rfl, by decide, rfl⟩
theorem witness_StepRunsDecodedInstruction_last_word : let s := ready 0x6A2B { State.reset with pc := 0xFFE }
    s.running ∧ s.cyclesLeft = 0 + 1 ∧ s.pc.toNat + 2 ≤ 0x1000 ∧
      decode (Memory.readRun s.mem s.pc.toNat 2) = .ok (.ldByte 10 0x2B, []) := ⟨rfl, rfl, by decide, rfl⟩
theorem witness_UnknownWordIsANoOp : let s := ready 0x5341
    s.running ∧ s.cyclesLeft = 0 + 1 ∧ s.fetchWord = some 0x5341 ∧ decodeWord 0x5341 = none :=
  ⟨rfl, rfl, by decide, by decide⟩
theorem witness_FetchIsBigEndian : ({ State.reset with pc := 0xFFE } : State).pc.toNat ≤ 0xFFE ∧
    ({ State.reset with pc := 0x201 } : State).pc.toNat ≤ 0xFFE := by decide
theorem witness_WhichInstructionRaisesWhat_fetch : let s := { State.reset with pc := 0xFFF }
    s.running ∧ 0xFFF ≤ s.pc.toNat := ⟨rfl, by decide⟩
theorem witness_WhichInstructionRaisesWhat_exec : let s := { State.reset with i := 0x1000 }
    s.fault.cause = .none ∧ exec (.loadRegs 0) s = .next (s.raise .readRange 0x1000) ∧
      exec (.drw 0 0 1) s = .next (s.raise .readRange 0x1000) ∧ exec (.ldB 0) s = .next (s.raise .writeRange 0x1000) ∧
      exec (.storeRegs 0) s = .next (s.raise .writeRange 0x1000) := ⟨rfl, rfl, rfl, rfl, rfl⟩
theorem witness_WhichInstructionRaisesWhat_keys : let s := withRegs [(0, 16)]
    s.fault.cause = .none ∧ exec (.skp 0) s = .next (s.raise .keyIndex 16) ∧
      exec (.sknp 0) s = .next (s.raise .keyIndex 16) ∧ exec (.jp 0) s = .next (s.setPC 0) := ⟨rfl, rfl, rfl, rfl⟩
theorem witness_WhichInstructionRaisesWhat_unknown : State.reset.fault.cause = .none ∧ decodeWord 0 = none ∧
    executeWord 0 State.reset = .next (execUnknown 0 State.reset) := ⟨rfl, by decide, rfl⟩
theorem witness_FaultUndoesTheCycle_fetch : let s := { State.reset with pc := 0xFFF }
    ∃ t, s.running ∧ cycleEvent s = .next t ∧ t.fault.cause ≠ .none := ⟨_, rfl, rfl, by decide⟩
theorem witness_FaultUndoesTheCycle_exec : let s := ready 0xF065 { State.reset with i := 0x1000 }
    ∃ t, s.running ∧ cycleEvent s = .next t ∧ t.fault.cause ≠ .none := ⟨_, rfl, rfl, by decide⟩
theorem witness_FrozenMachineStaysFrozen :
    ({ State.reset with fault := ⟨.keyIndex, 16⟩ } : State).fault.cause ≠ .none := by decide
theorem witness_PlacedWordRunsNext : State.reset.pc.toNat + 2 ≤ 0x1000 ∧
    decodeTableWord 16 (0x1ABC : Word).toNat = some (.jp 0xABC) := by decide
theorem witness_PlacedWordRunsNext_frozen_last_word :
    let s := { State.reset with pc := 0xFFE, fault := ⟨.readRange, 0x1000⟩, cyclesLeft := 0 }
    s.pc.toNat + 2 ≤ 0x1000 ∧ decodeTableWord 16 (0x00EE : Word).toNat = some .ret := by decide
theorem witness_TickCountsDownAndReloadsKeys_frozen :
    ({ State.reset with dt := 5, fault := ⟨.fetchRange, 0x1000⟩ } : State).fault.cause ≠ .none := by decide
theorem witness_TickCountsDownAndReloadsKeys : let s := { State.reset with dt := 0, st := 255 }
    s.fault.cause = .none ∧ ¬ s.dt.toNat > 0 ∧ s.st.toNat > 0 := by decide
theorem witness_TimersStopAtZero : ({ State.reset with dt := 2 } : State).fault.cause = .none := rfl
theorem witness_StepTicksWhenPeriodEnds : let s := { State.reset with cyclesLeft := 0, dt := 1 }
    s.running ∧ s.cyclesLeft = 0 := ⟨rfl, rfl⟩
theorem witness_CyclesOfAPeriodSeeTheSameKeys_none : let s := { State.reset with cyclesLeft := 0 }
    s.cyclesLeft = 0 ∧ Sys2Proof.core.run 0 s = .next s := ⟨rfl, rfl⟩
theorem witness_CyclesOfAPeriodSeeTheSameKeys : ∃ t, (ready 0xA123).cyclesLeft = 1 ∧
    Sys2Proof.core.run 1 (ready 0xA123) = .next t := ⟨_, rfl, rfl⟩
theorem witness_ResetPutsEveryItemAtItsValue : let p : List Byte := [0x12, 0x00]
    p.length ≤ 3584 ∧ 1 < p.length ∧ (0x50 < 0x1000 ∧ 0x50 ≤ 0x50 ∧ (0x50 < 0x200 ∨ 0x200 + p.length ≤ 0x50)) ∧
      (0xFFF < 0x1000 ∧ 0x50 ≤ 0xFFF ∧ (0xFFF < 0x200 ∨ 0x200 + p.length ≤ 0xFFF)) := by decide
theorem witness_LoaderRefusesLongImages : 3584 < (List.replicate 3585 (0 : Byte)).length ∧
    (List.replicate 3584 (0 : Byte)).length ≤ 3584 := by simp only [List.length_replicate]; decide
theorem witness_InvariantHoldsAtReset : (List.replicate 3584 (0 : Byte)).length ≤ 3584 := by
  rw [List.length_replicate]
theorem witness_StepKeepsInvariant : ({ State.reset with sp := 16, mem := [(0x200, 0x22)] } : State).Inv := by decide
theorem witness_ReachableStatesAreInRange : ([0x22, 0x00] : List Byte).length ≤ 3584 := by decide
theorem witness_ExecChangesOnlyItsWriteSet : exec (.ldI 0x300) State.reset = .next (State.reset.setI 0x300) := rfl
theorem witness_OnlyClsAndDrwWriteTheDisplay : let s := ready 0x00E0 { State.reset with disp := Display.flip Display.blank 31 63 }
    ∃ t, step s = .next t ∧ Display.pixel t.disp (31 : Fin 32) (63 : Fin 64) ≠ Display.pixel s.disp (31 : Fin 32) (63 : Fin 64) :=
  ⟨_, rfl, by decide⟩
theorem witness_TimersAndKeysChangeOnlyAtTicks : let s := withRegs [(1, 7)] (ready 0xF115)
    ∃ t, s.cyclesLeft ≠ 0 ∧ step s = .next t ∧ t.dt ≠ s.dt := ⟨_, by decide, rfl, by decide⟩
theorem witness_TimersAndKeysChangeOnlyAtTicks_sound : let s := withRegs [(1, 7)] (ready 0xF118)
    ∃ t, s.cyclesLeft ≠ 0 ∧ step s = .next t ∧ t.st ≠ s.st := ⟨_, by decide, rfl, by decide⟩
theorem witness_StrobesComeFromClsAndUnknownWords : let s := ready 0x00E0
    ∃ t, step s = .next t ∧ s.running ∧ s.cyclesLeft ≠ 0 ∧ s.fetchWord = some 0x00E0 :=
  ⟨_, rfl, rfl, by decide, by decide⟩
theorem witness_StrobesComeFromClsAndUnknownWords_tick : let s := { State.reset with cyclesLeft := 0 }
    ∃ t, step s = .next t ∧ s.cyclesLeft = 0 := ⟨_, rfl, rfl⟩
theorem witness_OnlyFlagInstructionsWriteVF : ∃ t, exec (.shr 1 0) (withRegs [(1, 3)]) = .next t ∧
    t.reg 15 ≠ (withRegs [(1, 3)]).reg 15 := ⟨_, rfl, by decide⟩
theorem witness_OnlyFlagInstructionsWriteVF_destination : ∃ t, exec (.ldByte 15 3) State.reset = .next t ∧
    t.reg 15 ≠ State.reset.reg 15 := ⟨_, rfl, by decide⟩
theorem witness_SoundTimerInfluencesNothing : ∀ x, Instr.cls ≠ .ldSTVx x := by decide
theorem witness_RetPopsTheNewestEntry : (0x0AEE : Word) &&& 0xF0FF = 0x00EE ∧ State.reset.sp = 0 ∧
    ({ State.reset with sp := 1 } : State).sp.toNat = ((0 : Fin 16) : Nat) + 1 ∧
    ({ State.reset with sp := 16 } : State).sp.toNat = ((15 : Fin 16) : Nat) + 1 := by decide
theorem witness_RetStopsWithoutASlot : 16 < ({ State.reset with sp := 17 } : State).sp.toNat ∧
    16 < ({ State.reset with sp := 255 } : State).sp.toNat := by decide
theorem witness_CallPushesAndJumps : State.reset.sp.toNat = (0 : Fin 16) ∧
    ({ State.reset with sp := 15 } : State).sp.toNat = (15 : Fin 16) ∧
    16 ≤ ({ State.reset with sp := 16 } : State).sp.toNat ∧ 16 ≤ ({ State.reset with sp := 255 } : State).sp.toNat := by
  decide
theorem witness_CallThenRetReturns : State.reset.sp.toNat = (0 : Fin 16) ∧
    ({ State.reset with sp := 15 } : State).sp.toNat = (15 : Fin 16) := by decide
theorem witness_SkipsCompareAndStepOver_unknown : fieldOp 0x5001 = 0x5 ∧ fieldN 0x5001 ≠ 0 ∧ fieldOp 0x900F = 0x9 ∧
    fieldN 0x900F ≠ 0 := by decide
theorem witness_SkipsCompareAndStepOver : let s := withRegs [(0, 7), (1, 7), (2, 8)]
    s.reg 0 = 7 ∧ ¬ s.reg 2 = 7 ∧ s.reg 0 = s.reg 1 ∧ ¬ s.reg 0 = s.reg 2 := by decide
theorem witness_AddByteWrapsWithoutFlag : (14 : Reg) ≠ 15 := by decide
theorem witness_AddSetsCarry : let s := withRegs [(14, 0xFF), (0, 0), (1, 1)]
    (14 : Reg) ≠ 15 ∧ ¬ (s.reg 14).toNat + (s.reg 0).toNat > 255 ∧ (s.reg 14).toNat + (s.reg 1).toNat > 255 := by decide
theorem witness_SubSetsNotBorrow : let s := withRegs [(14, 1), (0, 1), (1, 2)]
    (14 : Reg) ≠ 15 ∧ ¬ (s.reg 0).toNat > (s.reg 14).toNat ∧ (s.reg 1).toNat > (s.reg 14).toNat := by decide
theorem witness_SubnSetsNotBorrow : let s := withRegs [(14, 1), (0, 1), (1, 0)]
    (14 : Reg) ≠ 15 ∧ ¬ (s.reg 14).toNat > (s.reg 0).toNat ∧ (s.reg 14).toNat > (s.reg 1).toNat := by decide
theorem witness_ShiftsCaptureTheBitShiftedOut : let s := withRegs [(0, 0x7E), (1, 0x81)]
    (0 : Reg) ≠ 15 ∧ ¬ (s.reg 0).getLsbD 0 ∧ ¬ (s.reg 0).getLsbD 7 ∧ (s.reg 1).getLsbD 0 ∧ (s.reg 1).getLsbD 7 := by decide
theorem witness_DataStandsWhenVFIsTheDestination : (0 : Reg) ≠ 15 ∧ (14 : Reg) ≠ 15 := by decide
theorem witness_AddIFlagsBeyondTwelveBits : let s := withRegs [(0, 0), (1, 1)] { State.reset with i := 0xFFF }
    ¬ (s.i.toNat + (s.reg 0).toNat) % 65536 > 0xFFF ∧ (s.i.toNat + (s.reg 1).toNat) % 65536 > 0xFFF := by decide
theorem witness_BcdStoresThreeDigits : ({ State.reset with i := 0xFFD } : State).i.toNat + 2 ≤ 0xFFF ∧
    0xFFF < ({ State.reset with i := 0xFFE } : State).i.toNat + 2 ∧
    0xFFF < ({ State.reset with i := 0xFFFF } : State).i.toNat + 2 := by decide
theorem witness_StoreRegsCopiesToMemory : let s := { State.reset with i := 0xFF0 }
    s.i.toNat + (15 : Reg).val ≤ 0xFFF ∧ (15 : Reg) ≤ 15 ∧ 0xFFF < (s.setI 0xFF1).i.toNat + (15 : Reg).val := by decide
theorem witness_LoadRegsCopiesFromMemory : let s := { State.reset with i := 0xFFF }
    s.i.toNat + (0 : Reg).val ≤ 0xFFF ∧ (0 : Reg) ≤ 0 ∧ 0xFFF < s.i.toNat + (1 : Reg).val := by decide
theorem witness_StoreThenLoadRestoresRegisters : let s := { State.reset with i := 0xFF1 }
    s.i.toNat + (14 : Reg).val ≤ 0xFFF ∧ (14 : Reg) ≤ 14 ∧ (14 : Reg) < 15 := by decide
theorem witness_StoreIsSeenByTheNextFetch : let s := { State.reset with i := 0x208, pc := 0x208 }
    (1 : Reg).val = (0 : Reg).val + 1 ∧ (1 : Reg) ≤ 1 ∧ s.i.toNat + (1 : Reg).val ≤ 0xFFF ∧ s.pc.toNat = s.i.toNat + (0 : Reg).val := by
  decide
theorem witness_ClsBlanksTheDisplay : (0x05E0 : Word) &&& 0xF0FF = 0x00E0 := by decide
theorem witness_DrwXorsTheSprite_draws : ({ State.reset with i := 0xFF1 } : State).i.toNat + (15 : Fin 16).val ≤ 0x1000 ∧
    (0 : Fin 16) = 0 := by decide
theorem witness_DrwXorsTheSprite_faults : (1 : Fin 16) ≠ 0 ∧
    0x1000 < ({ State.reset with i := 0x1000 } : State).i.toNat + (1 : Fin 16).val ∧
    0x1000 < ({ State.reset with i := 0xFF2 } : State).i.toNat + (15 : Fin 16).val := by decide
-- B4: cell (31,62) is covered, and it collides when it is on
theorem witness_DrwXorsTheSprite_covers :
    let s := withRegs [(0, 62), (1, 31)] (withBytes 0x300 [0xF0, 0xF0]
      { State.reset with i := 0x300, disp := Display.flip Display.blank 31 62 })
    (s.reg 1).toNat % 32 ≤ 31 ∧ 31 < (s.reg 1).toNat % 32 + 2 ∧ (s.reg 0).toNat % 64 ≤ 62 ∧ 62 < (s.reg 0).toNat % 64 + 8 ∧
      (s.byte (s.i.toNat + (31 - (s.reg 1).toNat % 32))).getLsbD (7 - (62 - (s.reg 0).toNat % 64)) = true ∧
      Display.pixel s.disp 31 62 = true := by decide
theorem witness_DrawingTwiceRestoresTheDisplay : let s := withRegs [(0, 62), (1, 31)]
    ∃ t, s.i.toNat + (2 : Fin 16).val ≤ 0x1000 ∧ exec (.drw 0 1 2) s = .next t ∧
      (t.reg 0).toNat % 64 = (s.reg 0).toNat % 64 ∧ (t.reg 1).toNat % 32 = (s.reg 1).toNat % 32 :=
  ⟨_, by decide, rfl, by decide, by decide⟩
theorem witness_KeySkipsReadHeld : let s := withRegs [(0, 15), (1, 0), (2, 16)] { State.reset with held := 0x8000 }
    (s.reg 0).toNat ≤ 15 ∧ s.held.getLsbD (s.reg 0).toNat = true ∧ (s.reg 1).toNat ≤ 15 ∧
      s.held.getLsbD (s.reg 1).toNat = false ∧ 15 < (s.reg 2).toNat := by decide
theorem witness_KeyWaitTakesTheLeastReleasedKey_least : let s := { State.reset with rel := 0x8001 }
    0 < 16 ∧ s.rel.getLsbD 0 = true ∧ ∀ j < 0, s.rel.getLsbD j = false := by decide
theorem witness_KeyWaitTakesTheLeastReleasedKey_last : let s := { State.reset with rel := 0x8000 }
    15 < 16 ∧ s.rel.getLsbD 15 = true ∧ ∀ j < 15, s.rel.getLsbD j = false := by decide
theorem witness_KeyWaitTakesTheLeastReleasedKey_none : ∀ k < 16, State.reset.rel.getLsbD k = false := by decide
theorem witness_KeyWaitSpendsThePeriod : let s := { ready 0xF10A with cyclesLeft := 3 }
    s.running ∧ s.fetchWord = some 0xF10A ∧ decodeWord 0xF10A = some (.ldVxK 1) ∧ s.rel = 0 ∧ 2 ≤ s.cyclesLeft :=
  ⟨rfl, by decide, by decide, rfl, by decide⟩

end Sys2Proof.Tests
end

/-! PROOFS of the family 10_state.md: what Reset puts into the state, the invariant of every run, the frame of every
instruction, and what VF and ST depend on. -/

namespace Sys2Proof.Machine

/-! ### What the instructions with more than one outcome can do -/

/-- What RET can do: nothing on an empty stack, a pop with an entry, the stop without a slot (41_flow.md R141). -/
theorem execRet_cases (s : State) :
    (s.sp.toNat = 0 ∧ execRet s = .next s) ∨
    (∃ k : Fin 16, s.sp.toNat = k + 1 ∧ execRet s = .next ((s.setPC s.stack[k]).setSP (BitVec.ofNat 8 k))) ∨
    (16 < s.sp.toNat ∧ execRet s = .fault .stackIndex) := by
  unfold execRet
  cases hsp : s.sp.toNat with
  | zero => exact .inl ⟨rfl, rfl⟩
  | succ k =>
    by_cases hk : k < 16
    · exact .inr (.inl ⟨⟨k, hk⟩, rfl, by simp [hk]⟩)
    · exact .inr (.inr ⟨by omega, by simp [hk]⟩)

/-- What CALL can do: push and jump with room, nothing on a full stack (41_flow.md R143). -/
theorem execCall_cases (nnn : Addr12) (s : State) :
    (∃ h : s.sp.toNat < 16, execCall nnn s = .next ((s.push s.pc h).setPC (addrOperand nnn))) ∨
    (16 ≤ s.sp.toNat ∧ execCall nnn s = .next s) := by
  by_cases h : s.sp.toNat < 16
  · exact .inl ⟨h, dif_pos h⟩
  · exact .inr ⟨by omega, dif_neg h⟩

/-- What LD Vx,K can do: take the least newly released key, or run again (45_keys_timers.md R232). -/
theorem execLdVxK_cases (x : Reg) (s : State) :
    (∃ k, leastKey s.rel = some k ∧ execLdVxK x s = .next (s.setReg x (BitVec.ofNat 8 k))) ∨
    (leastKey s.rel = none ∧ execLdVxK x s = .next s.rewind) := by
  unfold execLdVxK
  cases leastKey s.rel with
  | some k => exact .inl ⟨k, rfl, rfl⟩
  | none => exact .inr ⟨rfl, rfl⟩

/-! ### Frames of the updates (10_state.md R37) -/

theorem OnlyChanges.single {w : Item → Prop} {a : Item} {s t : State} (ha : w a)
    (h : OnlyChanges (· ∈ [a]) s t) : OnlyChanges w s t :=
  h.mono fun it hit => by rw [List.mem_singleton.mp hit]; exact ha

theorem OnlyChanges.pair {w : Item → Prop} {a b : Item} {s t : State} (ha : w a) (hb : w b)
    (h : OnlyChanges (· ∈ [a, b]) s t) : OnlyChanges w s t :=
  h.mono fun it hit => by
    rcases List.mem_pair.mp hit with rfl | rfl
    · exact ha
    · exact hb

theorem State.setVF_frame (s : State) (c : Bool) : OnlyChanges (· ∈ [.reg regVF]) s (s.setVF c) :=
  s.setReg_frame regVF (flagByte c)

theorem State.setI_frame (s : State) (a : Word) : OnlyChanges (· ∈ [.index]) s (s.setI a) := by
  intro it h
  cases it with
  | index => simp at h
  | _ => rfl

theorem State.setSP_frame (s : State) (b : Byte) : OnlyChanges (· ∈ [.sp]) s (s.setSP b) := by
  intro it h
  cases it with
  | sp => simp at h
  | _ => rfl

theorem State.setDT_frame (s : State) (b : Byte) : OnlyChanges (· ∈ [.dt]) s (s.setDT b) := by
  intro it h
  cases it with
  | dt => simp at h
  | _ => rfl

theorem State.setST_frame (s : State) (b : Byte) : OnlyChanges (· ∈ [.st]) s (s.setST b) := by
  intro it h
  cases it with
  | st => simp at h
  | _ => rfl

theorem State.emit_frame (s : State) (o : Strobe) : OnlyChanges (· ∈ [.trace]) s (s.emit o) := by
  intro it h
  cases it with
  | trace => simp at h
  | _ => rfl

theorem State.drawn_frame (s : State) : OnlyChanges (· ∈ [.draws]) s s.drawn := by
  intro it h
  cases it with
  | draws => simp at h
  | _ => rfl

theorem State.setDisp_frame (s : State) (d : Display) : OnlyChanges Item.isCell s (s.setDisp d) := by
  intro it h
  cases it with
  | cell r c => exact absurd ⟨r, c, rfl⟩ h
  | _ => rfl

/-- A list of bytes loaded changes the registers it has an entry for (43_index_memory.md R195). -/
theorem State.setRegs_frame (s : State) (bs : List Byte) :
    OnlyChanges (fun it => ∃ r : Reg, it = .reg r ∧ r.val < bs.length) s (s.setRegs bs) := by
  intro it h
  cases it with
  | reg r =>
    have hr : bs.length ≤ r.val := not_lt.mp fun hlt => h ⟨r, rfl, hlt⟩
    simp [Item.same, State.reg_setRegs, hr]
  | _ => rfl

/-- A push changes SP and the slot it names (10_state.md R26). -/
theorem State.push_frame (s : State) (a : Word) (hsp : s.sp.toNat < 16) :
    OnlyChanges (· ∈ [.slot ⟨s.sp.toNat, hsp⟩, .sp]) s (s.push a hsp) := by
  intro it h
  cases it with
  | slot k =>
    have hk : s.sp.toNat ≠ k.val := fun he => h (by simp [he])
    exact Vector.getElem_set_ne hsp k.isLt hk
  | sp => simp at h
  | _ => rfl

theorem State.skipIf_frame (s : State) (c : Bool) : OnlyChanges (· ∈ [.pc]) s (s.skipIf c) := by
  obtain ⟨-, -, hframe⟩ := s.skipIf_spec c
  exact hframe

theorem State.raise_frame (s : State) (cause : FaultCause) (info : Nat) :
    OnlyChanges (· ∈ [.pc, .fault]) s (s.raise cause info) := by
  obtain ⟨-, -, hframe⟩ := s.raise_faultedFrom cause info
  exact hframe

/-! ### Frames of the outcomes -/

section
variable {w : Item → Prop} {s t u : State}

/-- An outcome that is a next state by its form. -/
theorem onlyChanges_of_next (hu : OnlyChanges w s u)
    (h : (.next u : Host.Outcome State Fault Refusal) = .next t) : OnlyChanges w s t :=
  Host.Outcome.next.inj h ▸ hu

theorem onlyChanges_of_memRead {a n : Nat} {k : List Byte → Host.Outcome State Fault Refusal}
    (hpc : w .pc) (hfault : w .fault)
    (hk : k (Memory.readRun s.mem a n) = .next t → OnlyChanges w s t)
    (h : s.memRead a n k = .next t) : OnlyChanges w s t := by
  rcases State.memRead_cases h with ⟨-, ho⟩ | ⟨-, ho⟩
  · exact hk ho.symm
  · exact onlyChanges_of_next ((s.raise_frame _ _).pair hpc hfault) ho.symm

theorem onlyChanges_of_memWrite {a : Nat} {bytes : List Byte} (hpc : w .pc) (hfault : w .fault)
    (hrun : ∀ it : Item, it.inRun a bytes.length → w it)
    (h : s.memWrite a bytes = .next t) : OnlyChanges w s t := by
  rcases State.memWrite_cases h with ⟨-, ho⟩ | ⟨-, ho⟩
  · exact onlyChanges_of_next ((s.storeRun_frame a bytes).mono hrun) ho.symm
  · exact onlyChanges_of_next ((s.raise_frame _ _).pair hpc hfault) ho.symm

theorem onlyChanges_keyOperand {vec : Word} {b : Byte} {k : Bool → State} (hpc : w .pc) (hfault : w .fault)
    (hk : ∀ c, OnlyChanges w s (k c)) : OnlyChanges w s (s.keyOperand vec b k) := by
  rcases s.keyOperand_cases vec b k with ⟨-, ho⟩ | ⟨-, ho⟩
  · exact ho ▸ hk _
  · exact ho ▸ (s.raise_frame _ _).pair hpc hfault

end

theorem execRet_frame {s t : State} (h : execRet s = .next t) : OnlyChanges (writeSet s .ret) s t := by
  rcases execRet_cases s with ⟨-, ho⟩ | ⟨k, -, ho⟩ | ⟨-, ho⟩
  · exact onlyChanges_of_next (.refl _ _) (ho ▸ h)
  · exact onlyChanges_of_next
      (((s.setPC_frame _).single (.inl rfl)).trans ((State.setSP_frame _ _).single (.inr rfl))) (ho ▸ h)
  · exact nomatch ho ▸ h

theorem execCall_frame {nnn : Addr12} {s t : State} (h : execCall nnn s = .next t) :
    OnlyChanges (writeSet s (.call nnn)) s t := by
  rcases execCall_cases nnn s with ⟨hsp, ho⟩ | ⟨-, ho⟩
  · exact onlyChanges_of_next
      (((s.push_frame _ hsp).pair (.inr (.inr ⟨⟨_, hsp⟩, rfl, rfl⟩)) (.inr (.inl rfl))).trans
        ((State.setPC_frame _ _).single (.inl rfl))) (ho ▸ h)
  · exact onlyChanges_of_next (.refl _ _) (ho ▸ h)

theorem execLdVxK_frame {x : Reg} {s t : State} (h : execLdVxK x s = .next t) :
    OnlyChanges (writeSet s (.ldVxK x)) s t := by
  rcases execLdVxK_cases x s with ⟨k, -, ho⟩ | ⟨-, ho⟩
  · exact onlyChanges_of_next ((s.setReg_frame _ _).single (.inl rfl)) (ho ▸ h)
  · exact onlyChanges_of_next ((s.setPC_frame _).single (.inr rfl)) (ho ▸ h)

theorem execLoadRegs_frame {x : Reg} {s t : State} (h : execLoadRegs x s = .next t) :
    OnlyChanges (writeSet s (.loadRegs x)) s t := by
  refine onlyChanges_of_memRead (.inr (.inl rfl)) (.inr (.inr rfl)) (onlyChanges_of_next ?_) h
  refine (s.setRegs_frame _).mono ?_
  rintro it ⟨r, rfl, hr⟩
  rw [Memory.length_readRun] at hr
  exact .inl ⟨r, rfl, Nat.le_of_lt_succ hr⟩

theorem execDrw_frame {x y : Reg} {n : Fin 16} {s t : State} (h : execDrw x y n s = .next t) :
    OnlyChanges (writeSet s (.drw x y n)) s t :=
  onlyChanges_of_memRead (.inr (.inr (.inl rfl))) (.inr (.inr (.inr rfl)))
    (onlyChanges_of_next (((s.setDisp_frame _).mono fun _ => .inl).trans
      ((State.setVF_frame _ _).single (.inr (.inl rfl))))) h

/-- Settles O24: one case per row of the access table, each by the frames of the updates its instruction makes. -/
theorem execChangesOnlyItsWriteSet : Obligations.ExecChangesOnlyItsWriteSet := by
  intro i s t h
  cases i with
  | cls =>
    exact onlyChanges_of_next (((s.setDisp_frame _).mono fun _ => .inl).trans
      ((State.emit_frame _ _).single (.inr rfl))) h
  | ret => exact execRet_frame h
  | call nnn => exact execCall_frame h
  | jp | jpV0 => exact onlyChanges_of_next ((s.setPC_frame _).single rfl) h
  | seByte | sneByte | seReg | sneReg => exact onlyChanges_of_next ((s.skipIf_frame _).single rfl) h
  | ldByte | addByte | ldReg | orReg | andReg | xorReg | ldVxDT =>
    exact onlyChanges_of_next ((s.setReg_frame _ _).single rfl) h
  | addReg | subReg | shr | subnReg | shl =>
    exact onlyChanges_of_next ((s.setFlagThenReg_frame _ _ _).pair (.inl rfl) (.inr rfl)) h
  | rnd x kk =>
    exact onlyChanges_of_next (((s.setReg_frame _ _).single (.inl rfl)).trans
      ((State.drawn_frame _).single (.inr rfl))) h
  | ldI | ldIF => exact onlyChanges_of_next ((s.setI_frame _).single rfl) h
  | addIVx x =>
    exact onlyChanges_of_next (((s.setI_frame _).single (.inl rfl)).trans
      ((State.setVF_frame _ _).single (.inr rfl))) h
  | drw x y n => exact execDrw_frame h
  | skp | sknp =>
    exact onlyChanges_of_next (onlyChanges_keyOperand (.inl rfl) (.inr rfl)
      fun _ => (s.skipIf_frame _).single (.inl rfl)) h
  | ldVxK x => exact execLdVxK_frame h
  | ldDTVx x => exact onlyChanges_of_next ((s.setDT_frame _).single rfl) h
  | ldSTVx x => exact onlyChanges_of_next ((s.setST_frame _).single rfl) h
  | ldB x => exact onlyChanges_of_memWrite (.inr (.inl rfl)) (.inr (.inr rfl)) (fun _ => .inl) h
  | storeRegs x =>
    refine onlyChanges_of_memWrite (.inr (.inl rfl)) (.inr (.inr rfl)) (fun _ hrun => .inl ?_) h
    rwa [State.length_regsUpTo] at hrun
  | loadRegs x => exact execLoadRegs_frame h

/-- Settles O28: VF is a register, so it changes only where the write set names it. -/
theorem onlyFlagInstructionsWriteVF : Obligations.OnlyFlagInstructionsWriteVF := by
  intro i s t h hne
  have hw : writeSet s i (.reg 15) := not_not.mp fun hn => hne (execChangesOnlyItsWriteSet i s t h (.reg 15) hn)
  cases i with
  | addReg | subReg | shr | subnReg | shl | drw | addIVx => simp
  | ldByte x | addByte x | ldReg x | orReg x | andReg x | xorReg x | rnd x | ldVxDT x | ldVxK x =>
    obtain rfl : 15 = x := by simpa [writeSet] using hw
    simp
  | loadRegs x =>
    have hx : 15 ≤ x := by simpa [writeSet] using hw
    obtain rfl : x = 15 := le_antisymm (Fin.le_last x) hx
    simp
  | _ => simp [writeSet, Item.isCell, Item.inRun] at hw

/-! ### The invariant (10_state.md R25, R26) -/

section
variable {s : State}

theorem Memory.wf_writeRun_of_inRange {m : Memory} {a : Nat} {ws : List Byte} (hm : Memory.wf m)
    (hr : inRange a ws.length = true) : Memory.wf (Memory.writeRun m a ws) := by
  rcases (inRange_iff _ _).mp hr with h0 | hle
  · rw [List.length_eq_zero_iff.mp h0]
    exact hm
  · exact Memory.wf_writeRun ws hm hle

theorem memWrite_keeps_inv (h : s.Inv) (a : Nat) (bytes : List Byte) :
    Completes (s.memWrite a bytes) State.Inv := by
  obtain ⟨hsp, hmem⟩ := h
  rcases State.memWrite_cases (rfl : s.memWrite a bytes = _) with ⟨hr, ho⟩ | ⟨-, ho⟩
  · exact ⟨_, ho, hsp, Memory.wf_writeRun_of_inRange hmem hr⟩
  · exact ⟨_, ho, hsp, hmem⟩

theorem memRead_keeps_inv (h : s.Inv) (a n : Nat) {k : List Byte → Host.Outcome State Fault Refusal}
    (hk : ∀ bytes, Completes (k bytes) State.Inv) : Completes (s.memRead a n k) State.Inv := by
  rcases State.memRead_cases (rfl : s.memRead a n k = _) with ⟨-, ho⟩ | ⟨-, ho⟩
  · exact ho ▸ hk _
  · exact ⟨_, ho, h⟩

theorem skipIf_keeps_inv (h : s.Inv) (c : Bool) : (s.skipIf c).Inv := by
  cases c <;> exact h

theorem keyOperand_keeps_inv (h : s.Inv) (vec : Word) (b : Byte) {k : Bool → State} (hk : ∀ c, (k c).Inv) :
    (s.keyOperand vec b k).Inv := by
  rcases s.keyOperand_cases vec b k with ⟨-, ho⟩ | ⟨-, ho⟩
  · exact ho ▸ hk _
  · exact ho ▸ h

/-- RET lowers SP or leaves it; the invariant rules out the stop without a slot. -/
theorem execRet_keeps_inv (h : s.Inv) : Completes (execRet s) State.Inv := by
  obtain ⟨hsp, hmem⟩ := h
  rcases execRet_cases s with ⟨-, ho⟩ | ⟨k, -, ho⟩ | ⟨hlt, -⟩
  · exact ⟨_, ho, hsp, hmem⟩
  · have hk := k.isLt
    refine ⟨_, ho, ?_, hmem⟩
    rw [State.setSP_sp, BitVec.toNat_ofNat]
    omega
  · omega

/-- CALL raises SP only where a slot is free, so to at most 16. -/
theorem execCall_keeps_inv (nnn : Addr12) (h : s.Inv) : Completes (execCall nnn s) State.Inv := by
  obtain ⟨hsp, hmem⟩ := h
  rcases execCall_cases nnn s with ⟨hlt, ho⟩ | ⟨-, ho⟩
  · refine ⟨_, ho, ?_, hmem⟩
    simp [BitVec.toNat_add]
    omega
  · exact ⟨_, ho, hsp, hmem⟩

theorem execLdVxK_keeps_inv (x : Reg) (h : s.Inv) : Completes (execLdVxK x s) State.Inv := by
  rcases execLdVxK_cases x s with ⟨k, -, ho⟩ | ⟨-, ho⟩
  · exact ⟨_, ho, h⟩
  · exact ⟨_, ho, h⟩

theorem execDrw_keeps_inv (x y : Reg) (n : Fin 16) (h : s.Inv) : Completes (execDrw x y n s) State.Inv := by
  unfold execDrw
  exact memRead_keeps_inv h _ _ fun _ => ⟨_, rfl, h⟩

theorem execLoadRegs_keeps_inv (x : Reg) (h : s.Inv) : Completes (execLoadRegs x s) State.Inv := by
  unfold execLoadRegs
  exact memRead_keeps_inv h _ _ fun _ => ⟨_, rfl, h⟩

/-- Every execute phase from a state in the invariant answers a next state in it: only RET and CALL write SP, only the
two store instructions write memory. -/
theorem exec_keeps_inv (i : Instr) (h : s.Inv) : Completes (exec i s) State.Inv := by
  cases i with
  | ret => exact execRet_keeps_inv h
  | call nnn => exact execCall_keeps_inv nnn h
  | ldB | storeRegs => exact memWrite_keeps_inv h _ _
  | drw x y n => exact execDrw_keeps_inv x y n h
  | loadRegs x => exact execLoadRegs_keeps_inv x h
  | skp | sknp => exact ⟨_, rfl, keyOperand_keeps_inv h _ _ fun _ => skipIf_keeps_inv h _⟩
  | seByte | sneByte | seReg | sneReg => exact ⟨_, rfl, skipIf_keeps_inv h _⟩
  | ldVxK x => exact execLdVxK_keeps_inv x h
  | _ => exact ⟨_, rfl, h⟩

theorem cycleEvent_keeps_inv (h : s.Inv) : Completes (cycleEvent s) State.Inv := by
  rcases cycleEvent_cases s with ⟨-, ho⟩ | ⟨-, -, ho⟩ | ⟨w, -, -, -, ho⟩ | ⟨w, i, -, -, -, ho⟩
  · exact ⟨_, ho, h⟩
  · exact ⟨_, ho, h⟩
  · exact ⟨_, ho, h⟩
  · exact ho ▸ exec_keeps_inv (s := s.advance) i h

theorem tickEvent_keeps_inv (h : s.Inv) (held released : Word) : (tickEvent held released s).Inv := by
  unfold tickEvent
  split
  · exact h
  · exact h

end

/-- Settles O22: a step is a Tick or a Cycle, and both keep the invariant. -/
theorem stepKeepsInvariant : Obligations.StepKeepsInvariant := by
  intro s h
  rcases step_cases s with ⟨-, ho⟩ | ⟨n, -, ho⟩
  · exact ⟨_, ho, tickEvent_keeps_inv (s := s.startPeriod) h _ _⟩
  · exact ho ▸ cycleEvent_keeps_inv (s := s.setCyclesLeft n) h

/-- Settles O31: the third case of RET. -/
theorem retStopsWithoutASlot : Obligations.RetStopsWithoutASlot := by
  intro s h
  rcases execRet_cases s with ⟨h0, -⟩ | ⟨k, hk, -⟩ | ⟨-, ho⟩
  · omega
  · have := k.isLt
    omega
  · exact ho

/-! ### Reset (10_state.md R34, 20_memory.md R65) -/

/-- The bytes of a font are its glyphs one after another. -/
theorem fontBytes_eq_flatten (font : Font) : fontBytes font = font.flatten.toList := by
  obtain ⟨⟨glyphs⟩, h⟩ := font
  simp only [fontBytes, Vector.flatten_mk, Vector.toList_mk, Array.toList_flatten, List.map_toArray, List.map_map]
  rfl

@[simp] theorem length_fontBytes (font : Font) : (fontBytes font).length = 80 := by
  simp [fontBytes_eq_flatten]

/-- FONT[5*k + j] is row j of glyph k (20_memory.md R62). -/
theorem getD_fontBytes (font : Font) (k : Fin 16) (j : Fin 5) (d : Byte) :
    (fontBytes font).getD (5 * k + j) d = font[k][j] := by
  have hk := k.isLt
  have hj := j.isLt
  have hlt : 5 * k.val + j.val < 16 * 5 := by omega
  have hglyph := Vector.getElem_flatten (xss := font) hlt
  simp only [show (5 * k.val + j.val) / 5 = k by omega, show (5 * k.val + j.val) % 5 = j by omega] at hglyph
  simpa [fontBytes_eq_flatten, List.getD, hlt] using hglyph

theorem unlisted_of_ge {a : Nat} (h : 0x50 ≤ a) : unlisted a = 0 := by
  simp [unlisted, List.getD, h]

/-- A byte of memory after Reset: of the image, of the font, or 0x00 (20_memory.md R65). -/
theorem read_resetMemory (font : Font) (program : List Byte) (a : Nat) :
    Memory.read (resetMemory font program) a =
      if 0x200 ≤ a ∧ a < 0x200 + program.length then program.getD (a - 0x200) 0
      else if a < 0x50 then (fontBytes font).getD a 0 else 0 := by
  rw [resetMemory, Memory.read_writeRun, Memory.read_writeRun, length_fontBytes]
  simp only [Config.loadAddr]
  by_cases himage : 0x200 ≤ a ∧ a < 0x200 + program.length
  · simp [himage]
  · by_cases hfont : a < 0x50
    · simp [himage, hfont]
    · simp [himage, hfont, Memory.read, unlisted_of_ge (not_lt.mp hfont)]

/-- An image of at most 3584 bytes is accepted (70_reset_and_hazards.md R293). -/
theorem resetEvent_of_fits (font : Font) {program : List Byte} (h : program.length ≤ 3584) :
    resetEvent font program = .next (State.reset.setMem (resetMemory font program)) :=
  if_pos (decide_eq_true h)

/-- Settles O18: the registers are those of `State.reset`, and memory is read off the two runs that Reset writes. -/
theorem resetPutsEveryItemAtItsValue : Obligations.ResetPutsEveryItemAtItsValue := by
  intro font program hlen
  have hbyte : ∀ a, (State.reset.setMem (resetMemory font program)).byte a =
      Memory.read (resetMemory font program) a := fun _ => rfl
  refine ⟨_, resetEvent_of_fits font hlen, fun r => ?_, rfl, rfl, rfl, fun k => ?_, rfl, rfl, rfl, rfl,
    fun r c => Display.pixel_blank r c, rfl, fun k j => ?_, fun j hj => ?_, fun a _ hlow himage => ?_⟩
  · simp [State.reg, State.reset]
  · simp [State.reset]
  · have hk := k.isLt
    have hj := j.isLt
    rw [hbyte, read_resetMemory, if_neg (by omega), if_pos (by omega), getD_fontBytes]
  · rw [hbyte, read_resetMemory, if_pos (by omega), Nat.add_sub_cancel_left]
  · rw [hbyte, read_resetMemory, if_neg (by omega), if_neg (by omega)]

theorem wf_resetMemory (font : Font) {program : List Byte} (h : program.length ≤ 3584) :
    Memory.wf (resetMemory font program) := by
  have hempty : Memory.wf [] := by simp [Memory.wf]
  have hfont : Memory.wf (Memory.writeRun [] 0 (fontBytes font)) :=
    Memory.wf_writeRun _ hempty (by rw [length_fontBytes]; decide)
  exact Memory.wf_writeRun _ hfont (by simp only [Config.loadAddr, Config.memSize]; omega)

/-- Settles O21: SP is 0, and the runs that Reset writes lie in memory. -/
theorem invariantHoldsAtReset : Obligations.InvariantHoldsAtReset :=
  ⟨by decide, fun font _ hlen => ⟨_, resetEvent_of_fits font hlen, Nat.zero_le _, wf_resetMemory font hlen⟩⟩

/-! ### Runs (10_state.md R35) -/

/-- What every step keeps, while it answers a next state, every run keeps. -/
theorem run_completes {P : State → Prop} (hstep : ∀ s, P s → Completes (step s) P) :
    ∀ (k : Nat) (s : State), P s → Completes (Sys2Proof.core.run k s) P
  | 0, s, hs => ⟨s, run_zero s, hs⟩
  | k + 1, s, hs => by
    obtain ⟨t, ht, hPt⟩ := hstep s hs
    rw [run_succ ht]
    exact run_completes hstep k t hPt

theorem FaultCause.code_le (c : FaultCause) : c.code.toNat ≤ 4 := by
  cases c <;> decide

/-- Settles O23: the invariant holds at Reset and along every run; the other ranges are those of the types. -/
theorem reachableStatesAreInRange : Obligations.ReachableStatesAreInRange := by
  intro font program k hlen
  obtain ⟨_, hreset⟩ := invariantHoldsAtReset
  obtain ⟨s, hs, hinv⟩ := hreset font program hlen
  obtain ⟨t, ht, hsp, -⟩ := run_completes stepKeepsInvariant k s hinv
  refine ⟨s, hs, t, ht, hsp, fun r => ?_, ?_, ?_, ?_, ?_, t.fault.cause.code_le⟩
  · exact Nat.le_of_lt_succ (t.reg r).isLt
  · exact Nat.le_of_lt_succ t.dt.isLt
  · exact Nat.le_of_lt_succ t.st.isLt
  · exact Nat.le_of_lt_succ t.i.isLt
  · exact Nat.le_of_lt_succ t.pc.isLt

/-! ### The sound timer (10_state.md R28, 60_exceptions.md R272) -/

/-- The outcome with ST replaced in its next state. -/
def outcomeSetST (b : Byte) : Host.Outcome State Fault Refusal → Host.Outcome State Fault Refusal
  | .next t => .next (t.setST b)
  | .fault r => .fault r
  | .refused r => .refused r

section
variable (s : State) (b : Byte)

theorem State.skipIf_setST (c : Bool) : (s.setST b).skipIf c = (s.skipIf c).setST b := by
  cases c <;> rfl

theorem State.memRead_setST (a n : Nat) {k k' : List Byte → Host.Outcome State Fault Refusal}
    (hk : ∀ bytes, k' bytes = outcomeSetST b (k bytes)) :
    (s.setST b).memRead a n k' = outcomeSetST b (s.memRead a n k) := by
  unfold State.memRead
  split
  · exact hk _
  · rfl

theorem State.memWrite_setST (a : Nat) (bytes : List Byte) :
    (s.setST b).memWrite a bytes = outcomeSetST b (s.memWrite a bytes) := by
  unfold State.memWrite
  split
  · rfl
  · rfl

theorem State.keyOperand_setST (vec : Word) (key : Byte) {k k' : Bool → State}
    (hk : ∀ c, k' c = (k c).setST b) :
    (s.setST b).keyOperand vec key k' = (s.keyOperand vec key k).setST b := by
  unfold State.keyOperand
  split
  · exact hk _
  · rfl

theorem execRet_setST : execRet (s.setST b) = outcomeSetST b (execRet s) := by
  unfold execRet
  rw [State.setST_sp]
  cases s.sp.toNat with
  | zero => rfl
  | succ k =>
    dsimp only [State.setST_stack]
    cases s.stack[k]? with
    | some a => rfl
    | none => rfl

theorem execCall_setST (nnn : Addr12) : execCall nnn (s.setST b) = outcomeSetST b (execCall nnn s) := by
  rcases execCall_cases nnn s with ⟨hroom, ho⟩ | ⟨hfull, ho⟩
  · rw [ho]
    exact dif_pos hroom
  · rw [ho]
    exact dif_neg (not_lt.mpr hfull)

theorem execLdVxK_setST (x : Reg) : execLdVxK x (s.setST b) = outcomeSetST b (execLdVxK x s) := by
  unfold execLdVxK
  rw [State.setST_rel]
  cases leastKey s.rel with
  | some k => rfl
  | none => rfl

theorem execDrw_setST (x y : Reg) (n : Fin 16) :
    execDrw x y n (s.setST b) = outcomeSetST b (execDrw x y n s) := by
  unfold execDrw
  exact s.memRead_setST b _ _ fun _ => rfl

theorem execLoadRegs_setST (x : Reg) : execLoadRegs x (s.setST b) = outcomeSetST b (execLoadRegs x s) := by
  unfold execLoadRegs
  exact s.memRead_setST b _ _ fun _ => rfl

/-- An execute phase that does not write ST runs the same whatever ST holds. -/
theorem exec_setST (i : Instr) (hi : ∀ x, i ≠ .ldSTVx x) : exec i (s.setST b) = outcomeSetST b (exec i s) := by
  cases i with
  | ldSTVx x => exact absurd rfl (hi x)
  | ret => exact execRet_setST s b
  | call nnn => exact execCall_setST s b nnn
  | ldVxK x => exact execLdVxK_setST s b x
  | seByte | sneByte | seReg | sneReg => exact congrArg _ (s.skipIf_setST b _)
  | skp | sknp => exact congrArg _ (s.keyOperand_setST b _ _ fun _ => s.skipIf_setST b _)
  | ldB | storeRegs => exact s.memWrite_setST b _ _
  | drw x y n => exact execDrw_setST s b x y n
  | loadRegs x => exact execLoadRegs_setST s b x
  | _ => rfl

end

/-- Settles O29: every instruction but LD ST,Vx carries a change of ST through, and LD ST,Vx overwrites it. -/
theorem soundTimerInfluencesNothing : Obligations.SoundTimerInfluencesNothing := by
  refine ⟨fun i s b hi => ?_, fun x s b => rfl⟩
  rw [exec_setST s b i hi]
  cases exec i s with
  | next t => rfl
  | fault r => rfl
  | refused r => rfl

end Sys2Proof.Machine

/-! PROOFS of the family 20_memory.md: what the fetch reads, and that it sees what LD [I],Vx stored. -/

namespace Sys2Proof.Machine

/-- The value of a word made of two bytes (20_memory.md R68). -/
theorem toNat_wordOfBytes (hi lo : Byte) : (wordOfBytes hi lo).toNat = hi.toNat * 256 + lo.toNat := by
  rw [wordOfBytes, BitVec.toNat_append, ← Nat.shiftLeft_add_eq_or_of_lt lo.isLt, Nat.shiftLeft_eq]

/-- Where both bytes at PC exist, the fetch reads them (20_memory.md R68). -/
theorem State.fetchWord_of_le {s : State} (h : s.pc.toNat ≤ 0xFFE) :
    s.fetchWord = some (wordOfBytes (s.byte s.pc.toNat) (s.byte (s.pc.toNat + 1))) :=
  if_pos ((inRange_iff _ _).mpr (.inr (by omega)))

/-- Settles O9: the fetch reads the two bytes at PC, and the first is the high byte of their word. -/
theorem fetchIsBigEndian : Obligations.FetchIsBigEndian :=
  fun _ h => ⟨_, State.fetchWord_of_le h, toNat_wordOfBytes _ _⟩

/-- A store whose bytes all have an address (20_memory.md R67). -/
theorem State.memWrite_of_le {s : State} {a : Nat} {bytes : List Byte} (h : a + bytes.length ≤ 0x1000) :
    s.memWrite a bytes = .next (s.setMem (Memory.writeRun s.mem a bytes)) :=
  if_pos ((inRange_iff _ _).mpr (.inr h))

/-- LD [I],Vx whose last byte has an address stores V[0], …, V[x] from I (43_index_memory.md R194). -/
theorem execStoreRegs_of_le {x : Reg} {s : State} (h : s.i.toNat + x ≤ 0xFFF) :
    execStoreRegs x s = .next (s.setMem (Memory.writeRun s.mem s.i.toNat (s.regsUpTo x))) :=
  State.memWrite_of_le (by rw [State.length_regsUpTo]; omega)

/-- After V[0], …, V[x] are stored from `a`, the byte at `a + q` is V[q] (43_index_memory.md R194). -/
theorem State.byte_storeRegs {s : State} {x q : Reg} (a : Nat) (h : q ≤ x) :
    (s.setMem (Memory.writeRun s.mem a (s.regsUpTo x))).byte (a + q) = s.reg q := by
  have hq : q.val ≤ x.val := h
  rw [State.byte_setMem_writeRun, State.length_regsUpTo, if_pos (by omega), Nat.add_sub_cancel_left,
    State.getD_regsUpTo _ _ _ _ h]

/-- Settles O53: the store leaves PC, and the bytes at PC and PC + 1 are the run's bytes j and j + 1. -/
theorem storeIsSeenByTheNextFetch : Obligations.StoreIsSeenByTheNextFetch := by
  intro x s j k hk hkx hrange hpc
  have hkx' : k.val ≤ x.val := hkx
  have hjx : j ≤ x := Fin.le_def.mpr (by omega)
  refine ⟨_, execStoreRegs_of_le hrange, ?_⟩
  obtain ⟨w, hw, hval⟩ := fetchIsBigEndian (s.setMem (Memory.writeRun s.mem s.i.toNat (s.regsUpTo x)))
    (by rw [State.setMem_pc]; omega)
  refine ⟨w, hw, ?_⟩
  have hpc' : s.pc.toNat + 1 = s.i.toNat + k := by omega
  rw [hval, State.setMem_pc, hpc', hpc, State.byte_storeRegs _ hjx, State.byte_storeRegs _ hkx]

end Sys2Proof.Machine

/-! PROOFS of the family 30_encoding.md: what the opcode map reads from a word, that the decode procedure reads the same,
and the round trips between words and instructions. -/

namespace Sys2Proof

/-! ### A word is its fields put together again (30_encoding.md R91, R92) -/

@[simp] theorem regField_of_toFin (n : BitVec 4) : regField n.toFin = n := rfl

section
variable {w : Word} {op n : BitVec 4} {kk : Byte}

/-- The high byte of a word is the fields op and x. -/
theorem fieldOp_append_fieldX (w : Word) : fieldOp w ++ regField (fieldX w) = w.extractLsb' 8 8 :=
  BitVec.extractLsb'_append_extractLsb'_eq_extractLsb' (by rfl)

/-- The low byte of a word is the fields y and n. -/
theorem fieldY_append_fieldN (w : Word) : regField (fieldY w) ++ fieldN w = w.extractLsb' 0 8 :=
  BitVec.extractLsb'_append_extractLsb'_eq_extractLsb' (by rfl)

theorem encodeNNN_of_fields (hop : fieldOp w = op) : encodeNNN op (fieldNNN w) = w := by
  have hcat : fieldOp w ++ fieldNNN w = w.extractLsb' 0 16 :=
    BitVec.extractLsb'_append_extractLsb'_eq_extractLsb' (by rfl)
  rw [encodeNNN, ← hop, hcat, BitVec.extractLsb'_eq_self]

theorem encodeXKK_of_fields (hop : fieldOp w = op) (hkk : fieldKK w = kk) : encodeXKK op (fieldX w) kk = w := by
  rw [encodeXKK, ← hop, ← hkk, fieldOp_append_fieldX]
  exact wordOfBytes_split w

theorem encodeXYN_of_fields (hop : fieldOp w = op) (hn : fieldN w = n) :
    encodeXYN op (fieldX w) (fieldY w) n = w := by
  rw [encodeXYN, ← hop, ← hn, fieldOp_append_fieldX, fieldY_append_fieldN]
  exact wordOfBytes_split w

end

/-! ### The words a row selects, by their fields (30_encoding.md R95, R96) -/

section
variable (w bits : Word)

@[simp] theorem selects_maskF000_iff :
    OpcodeRow.selects ⟨0xF000#16, bits⟩ w = true ↔ fieldOp w = bits.extractLsb' 12 4 ∧ bits &&& 0xF000 = bits := by
  change (w &&& 0xF000 == bits) = true ↔ fieldOp w = fieldOp bits ∧ _
  rw [beq_iff_eq]
  constructor
  · rintro rfl
    simp only [and_maskF000, fieldOp_encodeNNN, and_self]
  · rintro ⟨hop, hbits⟩
    rw [← hbits, and_maskF000, and_maskF000, hop]

@[simp] theorem selects_maskF0FF_iff :
    OpcodeRow.selects ⟨0xF0FF#16, bits⟩ w = true ↔
      (fieldOp w = bits.extractLsb' 12 4 ∧ fieldKK w = bits.extractLsb' 0 8) ∧ bits &&& 0xF0FF = bits := by
  change (w &&& 0xF0FF == bits) = true ↔ (fieldOp w = fieldOp bits ∧ fieldKK w = fieldKK bits) ∧ _
  rw [beq_iff_eq]
  constructor
  · rintro rfl
    simp only [and_maskF0FF, fieldOp_encodeXKK, fieldKK_encodeXKK, and_self]
  · rintro ⟨⟨hop, hkk⟩, hbits⟩
    rw [← hbits, and_maskF0FF, and_maskF0FF, hop, hkk]

@[simp] theorem selects_maskF00F_iff :
    OpcodeRow.selects ⟨0xF00F#16, bits⟩ w = true ↔
      (fieldOp w = bits.extractLsb' 12 4 ∧ fieldN w = bits.extractLsb' 0 4) ∧ bits &&& 0xF00F = bits := by
  change (w &&& 0xF00F == bits) = true ↔ (fieldOp w = fieldOp bits ∧ fieldN w = fieldN bits) ∧ _
  rw [beq_iff_eq]
  constructor
  · rintro rfl
    simp only [and_maskF00F, fieldOp_encodeXYN, fieldN_encodeXYN, and_self]
  · rintro ⟨⟨hop, hn⟩, hbits⟩
    rw [← hbits, and_maskF00F, and_maskF00F, hop, hn]

end

/-! ### Each group has one mask, so the word gives the row (30_encoding.md R95) -/

/-- The mask of the rows of a group, the group given by the top nibble (30_encoding.md R94, R96). -/
def groupMask (op : BitVec 4) : Word :=
  if op ∈ [0x0, 0xE, 0xF] then 0xF0FF else if op ∈ [0x5, 0x8, 0x9] then 0xF00F else 0xF000

theorem row_mask (i : Instr) : i.row.mask = groupMask (fieldOp i.row.bits) := by
  cases i <;> (dsimp only [Instr.row]; decide)

theorem fieldOp_and_groupMask (w : Word) (op : BitVec 4) : fieldOp (w &&& groupMask op) = fieldOp w := by
  have hmask : fieldOp (groupMask op) = BitVec.allOnes 4 := by decide +revert
  calc fieldOp (w &&& groupMask op)
      = fieldOp w &&& fieldOp (groupMask op) := BitVec.extractLsb'_and
    _ = fieldOp w := by rw [hmask, BitVec.and_allOnes]

theorem row_eq_of_selects {w : Word} {i : Instr} (h : i.row.selects w = true) :
    i.row = ⟨groupMask (fieldOp w), w &&& groupMask (fieldOp w)⟩ := by
  have hbits : w &&& i.row.mask = i.row.bits := beq_iff_eq.mp h
  have hop : fieldOp i.row.bits = fieldOp w := by
    rw [← hbits, row_mask, fieldOp_and_groupMask]
  have hmask : i.row.mask = groupMask (fieldOp w) := by rw [row_mask, hop]
  rw [← hmask, hbits]

/-- Settles O4: both rows are the one that the word's top nibble and the bits under its group's mask give. -/
theorem opcodeRowsDisjoint : Obligations.OpcodeRowsDisjoint := by
  intro w i j hi hj
  rw [row_eq_of_selects hi, row_eq_of_selects hj]

/-! ### What the opcode map reads from a word (30_encoding.md R96) -/

/-- The opcode map reads the instruction from the word: its row selects the word, and its operands are the word's
fields. -/
def MapReads (w : Word) (i : Instr) : Prop := i.row.selects w = true ∧ i ∈ opcodeMap.map (· w)

theorem row_selects_encode (i : Instr) : i.row.selects (encode i) = true := by
  cases i with
  | cls | ret => rfl
  | jp | call | ldI | jpV0 => exact selects_encodeNNN _ _
  | seByte | sneByte | ldByte | addByte | rnd => exact selects_encodeXKK _ _ _
  | seReg | ldReg | orReg | andReg | xorReg | addReg | subReg | shr | subnReg | shl | sneReg =>
    exact selects_encodeXY _ _ _ _
  | drw => exact selects_encodeXYN _ _ _ _
  | skp | sknp | ldVxDT | ldVxK | ldDTVx | ldSTVx | addIVx | ldIF | ldB | storeRegs | loadRegs =>
    exact selects_encodeX _ _ _

theorem mapReads_encode (i : Instr) : MapReads (encode i) i := by
  refine ⟨row_selects_encode i, ?_⟩
  cases i <;> simp [opcodeMap, encode]

/-- The decode procedure answers what the opcode map reads: the fixed fields of the row lead it to that instruction. -/
theorem decodeWord_of_mapReads {w : Word} {i : Instr} (h : MapReads w i) : decodeWord w = some i := by
  cases i
  all_goals
    simp [MapReads, Instr.row, opcodeMap] at h
    simp [decodeWord, decodeGroup0, decodeGroup8, decodeGroupE, decodeGroupF, h]

/-- Settles O1: the opcode map reads the instruction from its own word. -/
theorem decodeEncodeRoundTrip : Obligations.DecodeEncodeRoundTrip :=
  fun i => ⟨rfl, (decode_bytesOfWord _ _).mpr (decodeWord_of_mapReads (mapReads_encode i))⟩

/-! ### What the decode procedure answers (30_encoding.md R94) -/

section
variable {w : Word} {i : Instr}

theorem mapReads_of_decodeGroup0 (hop : fieldOp w = 0x0) (h : decodeGroup0 w = some i) : MapReads w i := by
  unfold decodeGroup0 at h
  split at h <;> cases h <;> simp [MapReads, Instr.row, opcodeMap, *]

theorem mapReads_of_decodeGroup8 (hop : fieldOp w = 0x8) (h : decodeGroup8 w = some i) : MapReads w i := by
  unfold decodeGroup8 at h
  split at h <;> cases h <;> simp [MapReads, Instr.row, opcodeMap, *]

theorem mapReads_of_decodeGroupE (hop : fieldOp w = 0xE) (h : decodeGroupE w = some i) : MapReads w i := by
  unfold decodeGroupE at h
  split at h <;> cases h <;> simp [MapReads, Instr.row, opcodeMap, *]

theorem mapReads_of_decodeGroupF (hop : fieldOp w = 0xF) (h : decodeGroupF w = some i) : MapReads w i := by
  unfold decodeGroupF at h
  split at h <;> cases h <;> simp [MapReads, Instr.row, opcodeMap, *]

end

section
variable (w : Word)

theorem decodeGroup0_eq_none_iff : decodeGroup0 w = none ↔ fieldKK w ∉ [0xE0, 0xEE] := by
  unfold decodeGroup0
  split <;> simp_all

theorem decodeGroup8_eq_none_iff :
    decodeGroup8 w = none ↔ fieldN w ∈ [0x8, 0x9, 0xA, 0xB, 0xC, 0xD, 0xF] := by
  unfold decodeGroup8
  generalize fieldN w = n
  split
  case h_10 =>
    simp_all
    bv_omega
  all_goals simp

theorem decodeGroupE_eq_none_iff : decodeGroupE w = none ↔ fieldKK w ∉ [0x9E, 0xA1] := by
  unfold decodeGroupE
  split <;> simp_all

theorem decodeGroupF_eq_none_iff :
    decodeGroupF w = none ↔ fieldKK w ∉ [0x07, 0x0A, 0x15, 0x18, 0x1E, 0x29, 0x33, 0x55, 0x65] := by
  unfold decodeGroupF
  split <;> simp_all

/-- What the procedure does by the top nibble: it examines a sub-field in six groups, and in the others every word is
an instruction. -/
theorem decodeWord_cases :
    (fieldOp w = 0x0 ∧ decodeWord w = decodeGroup0 w) ∨
    (fieldOp w = 0x5 ∧ decodeWord w = if fieldN w = 0 then some (.seReg (fieldX w) (fieldY w)) else none) ∨
    (fieldOp w = 0x8 ∧ decodeWord w = decodeGroup8 w) ∨
    (fieldOp w = 0x9 ∧ decodeWord w = if fieldN w = 0 then some (.sneReg (fieldX w) (fieldY w)) else none) ∨
    (fieldOp w = 0xE ∧ decodeWord w = decodeGroupE w) ∨
    (fieldOp w = 0xF ∧ decodeWord w = decodeGroupF w) ∨
    (fieldOp w ∉ [0x0, 0x5, 0x8, 0x9, 0xE, 0xF] ∧ ∃ i, MapReads w i ∧ decodeWord w = some i) := by
  unfold decodeWord
  split
  case h_16 =>
    have hop : fieldOp w = 0xF := by
      generalize fieldOp w = op at *
      decide +revert
    simp [hop]
  all_goals simp [MapReads, Instr.row, opcodeMap, *]

end

theorem mapReads_of_decodeWord {w : Word} {i : Instr} (h : decodeWord w = some i) : MapReads w i := by
  rcases decodeWord_cases w with
    ⟨hop, ho⟩ | ⟨hop, ho⟩ | ⟨hop, ho⟩ | ⟨hop, ho⟩ | ⟨hop, ho⟩ | ⟨hop, ho⟩ | ⟨-, j, hj, ho⟩
  · exact mapReads_of_decodeGroup0 hop (ho ▸ h)
  · obtain ⟨hn, hi⟩ := Option.ite_none_right_eq_some.mp (ho ▸ h)
    cases hi
    simp [MapReads, Instr.row, opcodeMap, hop, hn]
  · exact mapReads_of_decodeGroup8 hop (ho ▸ h)
  · obtain ⟨hn, hi⟩ := Option.ite_none_right_eq_some.mp (ho ▸ h)
    cases hi
    simp [MapReads, Instr.row, opcodeMap, hop, hn]
  · exact mapReads_of_decodeGroupE hop (ho ▸ h)
  · exact mapReads_of_decodeGroupF hop (ho ▸ h)
  · exact Option.some.inj (ho ▸ h) ▸ hj

theorem mapReads_of_decodeByMap {w : Word} {i : Instr} (h : decodeByMap w = some i) : MapReads w i := by
  unfold decodeByMap at h
  exact ⟨by simpa using List.find?_some h, List.mem_of_find?_eq_some h⟩

/-- Settles O3: where a row selects the word, both answer what the map reads; an answer of the procedure is read by a
row. -/
theorem procedureAgreesWithOpcodeMap : Obligations.ProcedureAgreesWithOpcodeMap := by
  intro w
  cases hmap : decodeByMap w with
  | some i => exact decodeWord_of_mapReads (mapReads_of_decodeByMap hmap)
  | none =>
    refine Option.eq_none_iff_forall_ne_some.mpr fun i hi => ?_
    obtain ⟨hsel, hmem⟩ := mapReads_of_decodeWord hi
    exact List.find?_eq_none.mp hmap i hmem hsel

/-- Settles O5: group by group, by the sub-field the group examines. -/
theorem unknownWordsAreTheListedOnes : Obligations.UnknownWordsAreTheListedOnes := by
  intro w
  rcases decodeWord_cases w with
    ⟨hop, ho⟩ | ⟨hop, ho⟩ | ⟨hop, ho⟩ | ⟨hop, ho⟩ | ⟨hop, ho⟩ | ⟨hop, ho⟩ | ⟨hop, i, -, ho⟩
  · simp [ho, hop, decodeGroup0_eq_none_iff]
  · simp [ho, hop]
  · simp [ho, hop, decodeGroup8_eq_none_iff]
  · simp [ho, hop]
  · simp [ho, hop, decodeGroupE_eq_none_iff]
  · simp [ho, hop, decodeGroupF_eq_none_iff]
  · simp_all

/-! ### The word of what was read (30_encoding.md R97, R102) -/

/-- Outside group 0x0 an instruction's fixed fields and operands make up the whole word. -/
theorem encode_of_mapReads {w : Word} {i : Instr} (h : MapReads w i) :
    encode i = if fieldOp w = 0 then w &&& 0xF0FF else w := by
  cases i with
  | cls | ret =>
    obtain ⟨hsel, -⟩ := h
    have hbits : w &&& 0xF0FF = _ := beq_iff_eq.mp hsel
    have hop : fieldOp w = 0 := by simp_all [Instr.row]
    rw [if_pos hop, hbits]
    rfl
  | _ =>
    simp [MapReads, Instr.row, opcodeMap] at h
    simp [encode, h, encodeNNN_of_fields, encodeXKK_of_fields, encodeXYN_of_fields]

/-- Settles O2: the opcode map reads the instruction from the word. -/
theorem encodeDecodeRoundTrip : Obligations.EncodeDecodeRoundTrip :=
  fun _ _ h => encode_of_mapReads (mapReads_of_decodeWord h)

/-- Settles O6: the decoder, run on each word. -/
theorem sampleWordsDecode : Obligations.SampleWordsDecode := by
  unfold Obligations.SampleWordsDecode
  decide

end Sys2Proof

/-! PROOFS of the family 40_cycle.md: what a Cycle of a running and of a frozen machine does, the word that
`withFetchWord` places, and the tick period. -/

namespace Sys2Proof.Machine

/-! ### Running and frozen machines (40_cycle.md R128) -/

theorem State.frozen_iff {s : State} : s.frozen = true ↔ s.fault.cause ≠ .none := by
  simp [State.frozen]

theorem State.running_iff {s : State} : s.running ↔ s.fault.cause = .none := by
  simp [State.running, State.frozen]

theorem cycleEvent_of_frozen {s : State} (h : s.frozen = true) : cycleEvent s = .next s := if_pos h

theorem tickEvent_of_frozen {s : State} (held released : Word) (h : s.frozen = true) :
    tickEvent held released s = s := if_pos h

theorem tickEvent_of_running {s : State} (held released : Word) (h : s.running) :
    tickEvent held released s = ((s.setDT (countDown s.dt)).setST (countDown s.st)).setKeys held released :=
  if_neg (Bool.eq_false_iff.mp h)

/-! ### The step by what is due (40_cycle.md R125) -/

theorem step_of_cyclesLeft_zero {s : State} (h : s.cyclesLeft = 0) :
    step s = .next (tickEvent (Config.heldVector s.ticks) (Config.releasedVector s.ticks) s.startPeriod) := by
  rcases step_cases s with ⟨-, ho⟩ | ⟨n, hn, -⟩
  · exact ho
  · omega

theorem step_of_cyclesLeft_succ {s : State} {n : Nat} (h : s.cyclesLeft = n + 1) :
    step s = cycleEvent (s.setCyclesLeft n) := by
  rcases step_cases s with ⟨h0, -⟩ | ⟨m, hm, ho⟩
  · omega
  · obtain rfl : m = n := by omega
    exact ho

/-- A Cycle of a running machine executes the fetched word with PC advanced (40_cycle.md R122). -/
theorem cycleEvent_of_fetchWord {s : State} {w : Word} (hrun : s.running) (hw : s.fetchWord = some w) :
    cycleEvent s = executeWord w s.advance := by
  simp [cycleEvent, show s.frozen = false from hrun, hw]

/-- A due Cycle of a running machine executes the word at PC, which the count of cycles does not move. -/
theorem step_of_fetchWord {s : State} {n : Nat} {w : Word} (hrun : s.running) (hn : s.cyclesLeft = n + 1)
    (hw : s.fetchWord = some w) : step s = executeWord w (s.setCyclesLeft n).advance :=
  (step_of_cyclesLeft_succ hn).trans (cycleEvent_of_fetchWord (s := s.setCyclesLeft n) hrun hw)

theorem executeWord_of_decodeWord {w : Word} {i : Instr} (h : decodeWord w = some i) (s : State) :
    executeWord w s = exec i s := by
  simp [executeWord, h]

theorem executeWord_of_unknown {w : Word} (h : decodeWord w = none) (s : State) :
    executeWord w s = .next (execUnknown w s) := by
  simp [executeWord, h]

/-! ### Decoding from bytes (30_encoding.md R94) -/

/-- Two bytes decode to what the word they make decodes to (20_memory.md R68). -/
theorem decode_pair (hi lo : Byte) (i : Instr) :
    decode [hi, lo] = .ok (i, []) ↔ decodeWord (wordOfBytes hi lo) = some i := by
  simp only [decode]
  cases decodeWord (wordOfBytes hi lo) <;> simp

/-- Settles O7: the bytes in range are the fetched word, and it decodes to the instruction. -/
theorem stepRunsDecodedInstruction : Obligations.StepRunsDecodedInstruction := by
  intro s n i hrun hn hpc hdec
  have hfetch := State.fetchWord_of_le (s := s) (by omega)
  exact ⟨rfl, (step_of_fetchWord hrun hn hfetch).trans (executeWord_of_decodeWord ((decode_pair _ _ i).mp hdec) _)⟩

/-! ### Frames of the cycle and the Tick -/

theorem State.setCyclesLeft_frame (s : State) (n : Nat) : OnlyChanges (· ∈ [.cyclesLeft]) s (s.setCyclesLeft n) := by
  intro it h
  cases it with
  | cyclesLeft => simp at h
  | _ => rfl

theorem State.startPeriod_frame (s : State) : OnlyChanges (· ∈ [.cyclesLeft, .ticks]) s s.startPeriod := by
  intro it h
  cases it with
  | cyclesLeft | ticks => simp at h
  | _ => rfl

theorem State.setKeys_frame (s : State) (held released : Word) :
    OnlyChanges (· ∈ [.held, .rel]) s (s.setKeys held released) := by
  intro it h
  cases it with
  | held | rel => simp at h
  | _ => rfl

theorem State.takeFault_frame (s : State) (a : Word) (cause : FaultCause) (info : Nat) :
    OnlyChanges (· ∈ [.pc, .fault]) s (s.takeFault a cause info) := by
  intro it h
  cases it with
  | pc | fault => simp at h
  | _ => rfl

/-- A Tick writes the timers and the key vectors (60_exceptions.md R258). -/
theorem tickEvent_frame (held released : Word) (s : State) :
    OnlyChanges (· ∈ [.dt, .st, .held, .rel]) s (tickEvent held released s) := by
  unfold tickEvent
  split
  · exact .refl _ _
  · exact (((s.setDT_frame _).single (by simp)).trans ((State.setST_frame _ _).single (by simp))).trans
      ((State.setKeys_frame _ _ _).pair (by simp) (by simp))

/-- Settles O8: the word is executed with PC advanced, so the strobe's address is the old PC. -/
theorem unknownWordIsANoOp : Obligations.UnknownWordIsANoOp := by
  refine ⟨by decide, fun s n w hrun hn hw hdec => ?_⟩
  refine ⟨execUnknown w (s.setCyclesLeft n).advance, ?_, rfl, ?_, rfl, ?_⟩
  · rw [step_of_fetchWord hrun hn hw, executeWord_of_unknown hdec]
  · change Strobe.illegal (s.pc + 2 - 2) w :: s.trace = _
    rw [BitVec.add_sub_cancel]
  · exact (((s.setCyclesLeft_frame n).single (by simp)).trans ((State.setPC_frame _ _).single (by simp))).trans
      ((State.emit_frame _ _).single (by simp))

/-! ### The frozen machine (40_cycle.md R128, 60_exceptions.md R258) -/

/-- A step of a frozen machine only counts: the cycle, or the Tick and its new period. -/
theorem step_of_frozen {s : State} (h : s.frozen = true) :
    Completes (step s) (OnlyChanges (· ∈ [.cyclesLeft, .ticks]) s) := by
  rcases step_cases s with ⟨-, ho⟩ | ⟨n, -, ho⟩
  · rw [tickEvent_of_frozen (s := s.startPeriod) _ _ h] at ho
    exact ⟨_, ho, s.startPeriod_frame⟩
  · rw [cycleEvent_of_frozen (s := s.setCyclesLeft n) h] at ho
    exact ⟨_, ho, (s.setCyclesLeft_frame n).single (by simp)⟩

/-- Settles O12: FAULT is none of the counts, so the machine is frozen before each step of the run. -/
theorem frozenMachineStaysFrozen : Obligations.FrozenMachineStaysFrozen := by
  intro k s hs
  refine run_completes (fun t hst => ?_) k s (.refl _ s)
  have hfault : t.fault = s.fault := hst .fault (by simp)
  obtain ⟨u, hu, htu⟩ := step_of_frozen (s := t) (State.frozen_iff.mpr (hfault ▸ hs))
  exact ⟨u, hu, hst.trans htu⟩

/-! ### The placed word (log entry 6) -/

/-- The bytes placed for a table word of 16 bits are the bytes of that word. -/
theorem tableBytes_toNat (w : Word) : tableBytes 16 w.toNat = bytesOfWord w := by
  rw [tableBytes, Nat.mod_eq_of_lt w.isLt, BitVec.ofNat_toNat, BitVec.setWidth_eq]

theorem decodeTableWord_toNat (w : Word) : decodeTableWord 16 w.toNat = decodeWord w := by
  rw [decodeTableWord, tableBytes_toNat]
  simp only [bytesOfWord, decode, wordOfBytes_split]
  cases decodeWord w <;> rfl

/-- With room for a word at PC, placing it stores its bytes there, clears FAULT and leaves one cycle. -/
theorem State.withFetchWord_of_le {s : State} (h : s.pc.toNat + 2 ≤ 0x1000) (w : Word) :
    s.withFetchWord 16 w.toNat =
      { s.setMem (Memory.writeRun s.mem s.pc.toNat (bytesOfWord w)) with fault := ⟨.none, 0⟩, cyclesLeft := 1 } := by
  rw [State.withFetchWord, tableBytes_toNat]
  exact if_pos ((inRange_iff _ _).mpr (.inr h))

section
variable {s : State} (h : s.pc.toNat + 2 ≤ 0x1000) (w : Word)
include h

theorem State.withFetchWord_pc : (s.withFetchWord 16 w.toNat).pc = s.pc := by
  rw [State.withFetchWord_of_le h]
  rfl

theorem State.withFetchWord_fault : (s.withFetchWord 16 w.toNat).fault = ⟨.none, 0⟩ := by
  rw [State.withFetchWord_of_le h]

theorem State.withFetchWord_cyclesLeft : (s.withFetchWord 16 w.toNat).cyclesLeft = 1 := by
  rw [State.withFetchWord_of_le h]

theorem State.byte_withFetchWord (a : Nat) :
    (s.withFetchWord 16 w.toNat).byte a =
      if s.pc.toNat ≤ a ∧ a < s.pc.toNat + 2 then (bytesOfWord w).getD (a - s.pc.toNat) 0 else s.byte a := by
  rw [State.withFetchWord_of_le h]
  exact s.byte_setMem_writeRun _ _ _

theorem State.withFetchWord_highByte : (s.withFetchWord 16 w.toNat).byte s.pc.toNat = w.extractLsb' 8 8 := by
  simp [State.byte_withFetchWord h, bytesOfWord]

theorem State.withFetchWord_lowByte : (s.withFetchWord 16 w.toNat).byte (s.pc.toNat + 1) = w.extractLsb' 0 8 := by
  simp [State.byte_withFetchWord h, bytesOfWord]

/-- The placed word is the one the fetch reads. -/
theorem State.fetchWord_withFetchWord : (s.withFetchWord 16 w.toNat).fetchWord = some w := by
  have hpc := State.withFetchWord_pc h w
  rw [State.fetchWord_of_le (by rw [hpc]; omega), hpc, State.withFetchWord_highByte h, State.withFetchWord_lowByte h,
    wordOfBytes_split]

theorem State.withFetchWord_frame :
    OnlyChanges (· ∈ [.fault, .cyclesLeft, .byte s.pc.toNat, .byte (s.pc.toNat + 1)]) s
      (s.withFetchWord 16 w.toNat) := by
  intro it hit
  cases it with
  | byte a =>
    have hout : ¬(s.pc.toNat ≤ a ∧ a < s.pc.toNat + 2) := by
      simp at hit
      omega
    exact (State.byte_withFetchWord h w a).trans (if_neg hout)
  | fault | cyclesLeft => simp at hit
  | _ =>
    rw [State.withFetchWord_of_le h]
    rfl

end

/-- Settles O13: the placed word is fetched, and the step executes it with PC advanced. -/
theorem placedWordRunsNext : Obligations.PlacedWordRunsNext := by
  intro s w i hpc hdec
  rw [decodeTableWord_toNat] at hdec
  have hfault := State.withFetchWord_fault hpc w
  have hrun : (s.withFetchWord 16 w.toNat).running := State.running_iff.mpr (by rw [hfault])
  refine ⟨((s.withFetchWord 16 w.toNat).setCyclesLeft 0).advance, ?_, ?_, hfault,
    State.withFetchWord_highByte hpc w, State.withFetchWord_lowByte hpc w, ?_⟩
  · rw [step_of_fetchWord hrun (State.withFetchWord_cyclesLeft hpc w) (State.fetchWord_withFetchWord hpc w),
      executeWord_of_decodeWord hdec]
  · exact congrArg (· + 2) (State.withFetchWord_pc hpc w)
  · exact (((State.withFetchWord_frame hpc w).mono fun _ => List.mem_cons_of_mem _).trans
      ((State.setCyclesLeft_frame _ 0).single (by simp))).trans ((State.setPC_frame _ _).single (by simp))

/-! ### The tick period (40_cycle.md R125, 60_exceptions.md R261) -/

/-- Settles O16: the Tick of a running machine, after the new period is set up. -/
theorem stepTicksWhenPeriodEnds : Obligations.StepTicksWhenPeriodEnds := by
  intro s hrun h0
  have htick := tickEvent_of_running (s := s.startPeriod) (Config.heldVector s.ticks)
    (Config.releasedVector s.ticks) hrun
  refine ⟨_, (step_of_cyclesLeft_zero h0).trans (congrArg _ htick), rfl, rfl, toNat_countDown s.dt,
    toNat_countDown s.st, rfl, rfl, ?_⟩
  rw [← htick]
  exact (s.startPeriod_frame.pair (by simp) (by simp)).trans
    ((tickEvent_frame _ _ _).mono fun _ => List.mem_append_left [Item.cyclesLeft, .ticks])

/-- No instruction writes a key vector or a count of the scheduler (10_state.md R37). -/
theorem not_writeSet_of_mem_schedule (s : State) (i : Instr) {it : Item}
    (h : it ∈ [.held, .rel, .cyclesLeft, .ticks]) : ¬ writeSet s i it := by
  simp only [List.mem_cons, List.not_mem_nil, or_false] at h
  rcases h with rfl | rfl | rfl | rfl
  all_goals cases i <;> simp [writeSet, Item.isCell, Item.inRun]

/-- A Cycle, whatever it executes, leaves the key vectors and the scheduler's counts (60_exceptions.md R261). -/
theorem cycleEvent_keeps_schedule {s t : State} (h : cycleEvent s = .next t) :
    OnlyChanges (· ∉ [.held, .rel, .cyclesLeft, .ticks]) s t := by
  rcases cycleEvent_cases s with ⟨-, ho⟩ | ⟨-, -, ho⟩ | ⟨w, -, -, -, ho⟩ | ⟨w, i, -, -, -, ho⟩
  · exact onlyChanges_of_next (.refl _ _) (ho ▸ h)
  · exact onlyChanges_of_next ((s.takeFault_frame _ _ _).pair (by simp) (by simp)) (ho ▸ h)
  · exact onlyChanges_of_next
      (((s.setPC_frame _).single (by simp)).trans ((State.emit_frame _ _).single (by simp))) (ho ▸ h)
  · refine ((s.setPC_frame _).single (by simp)).trans ((execChangesOnlyItsWriteSet i s.advance t (ho ▸ h)).mono ?_)
    exact fun it hw hit => not_writeSet_of_mem_schedule _ i hit hw

/-- The cycles of a period, run to its end, leave the key vectors and the count of Ticks. -/
theorem run_to_period_end : ∀ {n : Nat} {s t : State}, s.cyclesLeft = n → Sys2Proof.core.run n s = .next t →
    t.cyclesLeft = 0 ∧ t.ticks = s.ticks ∧ t.held = s.held ∧ t.rel = s.rel
  | 0, s, t, h0, hrun => by
    obtain rfl : s = t := Host.Outcome.next.inj hrun
    exact ⟨h0, rfl, rfl, rfl⟩
  | n + 1, s, t, hn, hrun => by
    obtain ⟨u, hstep, hrest⟩ := run_succ_inv hrun
    rw [step_of_cyclesLeft_succ hn] at hstep
    have hkeep := cycleEvent_keeps_schedule hstep
    have hticks : u.ticks = s.ticks := hkeep .ticks (by simp)
    have hheld : u.held = s.held := hkeep .held (by simp)
    have hrel : u.rel = s.rel := hkeep .rel (by simp)
    obtain ⟨hend, hticks', hheld', hrel'⟩ := run_to_period_end (hkeep .cyclesLeft (by simp)) hrest
    exact ⟨hend, hticks'.trans hticks, hheld'.trans hheld, hrel'.trans hrel⟩

/-- The step at the end of a period, of a frozen machine too, counts a Tick and starts a whole period. -/
theorem step_starts_period {s : State} (h0 : s.cyclesLeft = 0) :
    Completes (step s) (fun u => u.ticks = s.ticks + 1 ∧ u.cyclesLeft = Config.cyclesPerTick) := by
  have hframe := tickEvent_frame (Config.heldVector s.ticks) (Config.releasedVector s.ticks) s.startPeriod
  exact ⟨_, step_of_cyclesLeft_zero h0, hframe .ticks (by simp), hframe .cyclesLeft (by simp)⟩

/-- Settles O17: the period is run to its end, and the step there is the Tick. -/
theorem cyclesOfAPeriodSeeTheSameKeys : Obligations.CyclesOfAPeriodSeeTheSameKeys := by
  refine ⟨rfl, fun ⟨hpos, _⟩ => absurd hpos (Nat.lt_irrefl 0), fun n s t hn hrun => ?_⟩
  obtain ⟨hend, hticks, hheld, hrel⟩ := run_to_period_end hn hrun
  obtain ⟨u, hu, huticks, hucycles⟩ := step_starts_period hend
  rw [hticks] at huticks
  exact ⟨hend, hticks, hheld, hrel, u, hu, huticks, hucycles, huticks ▸ Nat.succ_pos _, hucycles⟩

end Sys2Proof.Machine

/-! PROOFS of the family 41_flow.md: what the jumps, the skips, CALL and RET do to PC, SP and the stack. -/

namespace Sys2Proof.Machine

/-! ### The row of an instruction (30_encoding.md R96) -/

/-- Every instruction's word has the fixed bits of its own row and decodes back to it. -/
theorem inRow_row (i : Instr) : InRow i.row.mask i.row.bits i :=
  ⟨beq_iff_eq.mp (row_selects_encode i), decodeWord_of_mapReads (mapReads_encode i)⟩

/-! ### RET and CALL by what the stack holds (41_flow.md R141, R143) -/

section
variable {s : State}

theorem execRet_of_empty (h : s.sp.toNat = 0) : execRet s = .next s := by
  rcases execRet_cases s with ⟨-, ho⟩ | ⟨k, hk, -⟩ | ⟨hlt, -⟩
  · exact ho
  · omega
  · omega

theorem execRet_of_entry {k : Fin 16} (h : s.sp.toNat = k + 1) :
    execRet s = .next ((s.setPC s.stack[k]).setSP (BitVec.ofNat 8 k)) := by
  rcases execRet_cases s with ⟨h0, -⟩ | ⟨j, hj, ho⟩ | ⟨hlt, -⟩
  · omega
  · obtain rfl : j = k := Fin.ext (by omega)
    exact ho
  · omega

theorem execCall_of_room (nnn : Addr12) (h : s.sp.toNat < 16) :
    execCall nnn s = .next ((s.push s.pc h).setPC (addrOperand nnn)) := dif_pos h

theorem execCall_of_full (nnn : Addr12) (h : 16 ≤ s.sp.toNat) : execCall nnn s = .next s :=
  dif_neg (Nat.not_lt.mpr h)

end

/-- Settles O30: an empty stack and a stack with an entry are two cases of RET; a pop writes PC and SP alone. -/
theorem retPopsTheNewestEntry : Obligations.RetPopsTheNewestEntry := by
  refine ⟨inRow_row .ret, fun w hw => ?_, fun s => ⟨fun h0 => ?_, fun k hk => ?_⟩⟩
  · exact decodeWord_of_mapReads ⟨beq_iff_eq.mpr hw, by simp [opcodeMap]⟩
  · exact execRet_of_empty (by rw [h0]; rfl)
  · refine ⟨_, execRet_of_entry hk, rfl, ?_, ?_⟩
    · rw [State.setSP_sp, BitVec.toNat_ofNat]
      omega
    · exact ((s.setPC_frame _).single (by simp)).trans ((State.setSP_frame _ _).single (by simp))

/-- Settles O33: with room the push names slot SP, and the jump writes PC alone. -/
theorem callPushesAndJumps : Obligations.CallPushesAndJumps := by
  refine fun nnn s => ⟨inRow_row (.call nnn), fun k hk => ?_, execCall_of_full nnn⟩
  have hroom : s.sp.toNat < 16 := hk ▸ k.isLt
  obtain rfl : k = ⟨s.sp.toNat, hroom⟩ := Fin.ext hk.symm
  refine ⟨_, execCall_of_room nnn hroom, ?_, ?_, toNat_addrOperand nnn, ?_⟩
  · exact Vector.getElem_set_self hroom
  · rw [State.setPC_sp, State.push_sp, BitVec.toNat_add_of_lt (by simp; omega)]
    rfl
  · exact ((s.push_frame s.pc hroom).pair (by simp) (by simp)).trans ((State.setPC_frame _ _).single (by simp))

/-- Settles O34: RET pops the entry that CALL pushed, and of what the two write only the slot differs. -/
theorem callThenRetReturns : Obligations.CallThenRetReturns := by
  intro nnn s k hk
  obtain ⟨-, hroom, -⟩ := callPushesAndJumps nnn s
  obtain ⟨t, hcall, htslot, htsp, -, htframe⟩ := hroom k hk
  obtain ⟨-, -, hret⟩ := retPopsTheNewestEntry
  obtain ⟨-, hentry⟩ := hret t
  obtain ⟨u, hu, hupc, husp, huframe⟩ := hentry k htsp
  have hpc : u.pc = s.pc := hupc.trans htslot
  have hsp : u.sp = s.sp := BitVec.eq_of_toNat_eq (husp.trans hk.symm)
  have hslot : u.stack[k] = t.stack[k] := huframe (.slot k) (by simp)
  refine ⟨t, hcall, u, hu, hpc, hsp, hslot.trans htslot, fun it hit => ?_⟩
  by_cases h : it ∈ [.pc, .sp]
  · rcases List.mem_pair.mp h with rfl | rfl
    · exact hpc
    · exact hsp
  · exact Item.same_trans (htframe it (by simp_all)) (huframe it h)

/-! ### The skips (41_flow.md R140, R144 to R147) -/

/-- A skip whose condition is the truth value of a proposition. -/
theorem State.skipIf_of_iff (s : State) {c : Bool} {p : Prop} (hc : c = true ↔ p) :
    (p → (s.skipIf c).pc.toNat = (s.pc.toNat + 2) % 65536) ∧ (¬ p → (s.skipIf c).pc = s.pc) ∧
      OnlyChanges (· ∈ [.pc]) s (s.skipIf c) := by
  obtain ⟨hyes, hno, hframe⟩ := s.skipIf_spec c
  exact ⟨fun hp => hyes (hc.mpr hp), fun hn => hno (Bool.eq_false_iff.mpr (mt hc.mp hn)), hframe⟩

/-- Settles O35: each instruction skips by the Boolean test of its comparison; the words with a low nibble other than 0
are two of the listed UNKNOWN classes. -/
theorem skipsCompareAndStepOver : Obligations.SkipsCompareAndStepOver := by
  intro x y kk s skips
  refine ⟨fun w hop hn => (unknownWordsAreTheListedOnes w).mpr ?_,
    inRow_row (.seByte x kk), ⟨_, rfl, s.skipIf_of_iff beq_iff_eq⟩,
    inRow_row (.sneByte x kk), ⟨_, rfl, s.skipIf_of_iff bne_iff_ne⟩,
    inRow_row (.seReg x y), ⟨_, rfl, s.skipIf_of_iff beq_iff_eq⟩,
    inRow_row (.sneReg x y), ⟨_, rfl, s.skipIf_of_iff bne_iff_ne⟩⟩
  rcases hop with h5 | h9
  · exact .inr (.inl ⟨h5, hn⟩)
  · exact .inr (.inr (.inr (.inl ⟨h9, hn⟩)))

/-! ### The jumps (41_flow.md R142, R148) -/

/-- Settles O36: the sum of a 12-bit literal and a byte is at most 0xFFF + 0xFF. -/
theorem jpV0JumpsToTheSum : Obligations.JpV0JumpsToTheSum := by
  intro nnn s
  have hsum : (addrOperand nnn + wide (s.reg 0)).toNat = (nnn.toNat + (s.reg 0).toNat) % 65536 := by
    rw [BitVec.toNat_add, toNat_addrOperand, toNat_wide]
  refine ⟨inRow_row (.jpV0 nnn), _, rfl, hsum, ?_, s.setPC_frame _⟩
  have hnnn := nnn.isLt
  have hv0 := (s.reg 0).isLt
  rw [State.setPC_pc, hsum]
  omega

/-- Settles O32: PC is set to the literal, zero extended. -/
theorem jpJumpsToTheLiteral : Obligations.JpJumpsToTheLiteral :=
  fun nnn s => ⟨inRow_row (.jp nnn), _, rfl, toNat_addrOperand nnn, s.setPC_frame _⟩

end Sys2Proof.Machine

/-! PROOFS of the family 42_load_alu.md: what the loads, the ALU and RND write to Vx and to VF. -/

namespace Sys2Proof.Machine

theorem Completes.mono {o : Host.Outcome State Fault Refusal} {P Q : State → Prop} (hPQ : ∀ t, P t → Q t) :
    Completes o P → Completes o Q
  | ⟨t, ho, ht⟩ => ⟨t, ho, hPQ t ht⟩

/-! ### Instructions that write Vx alone (42_load_alu.md R160 to R165, R171) -/

@[simp] theorem State.reg_setReg_self (s : State) (x : Reg) (b : Byte) : (s.setReg x b).reg x = b := by
  rw [State.reg_setReg, if_pos rfl]

/-- Settles O37: each load is one register write. -/
theorem loadsAssignVx : Obligations.LoadsAssignVx := fun x y kk s =>
  ⟨inRow_row (.ldByte x kk), ⟨_, rfl, s.reg_setReg_self x kk, s.setReg_frame x kk⟩,
    inRow_row (.ldReg x y), ⟨_, rfl, s.reg_setReg_self x (s.reg y), s.setReg_frame x (s.reg y)⟩⟩

/-- Settles O38: the sum of bytes is taken modulo 256, and the frame of one register write holds VF. -/
theorem addByteWrapsWithoutFlag : Obligations.AddByteWrapsWithoutFlag := by
  intro x kk s
  have hframe := s.setReg_frame x (s.reg x + kk)
  refine ⟨inRow_row (.addByte x kk), _, rfl, ?_, fun hx => hframe (.reg 15) (by simp [Ne.symm hx]), hframe⟩
  rw [State.reg_setReg_self, BitVec.toNat_add]

/-- A value whose every bit is `f` of the bits of Vx and Vy, written to Vx. -/
theorem State.setReg_bitwise (s : State) (x y : Reg) {f : Bool → Bool → Bool} {b : Byte}
    (hb : ∀ k, b.getLsbD k = f ((s.reg x).getLsbD k) ((s.reg y).getLsbD k)) :
    (∀ k < 8, ((s.setReg x b).reg x).getLsbD k = f ((s.reg x).getLsbD k) ((s.reg y).getLsbD k)) ∧
      OnlyChanges (· ∈ [.reg x]) s (s.setReg x b) :=
  ⟨fun k _ => by rw [State.reg_setReg_self, hb], s.setReg_frame x b⟩

/-- Settles O39: the library's bit lemma of each operation, for one register write. -/
theorem logicActsBitByBit : Obligations.LogicActsBitByBit := fun x y s =>
  ⟨inRow_row (.orReg x y), ⟨_, rfl, s.setReg_bitwise x y fun _ => BitVec.getLsbD_or⟩,
    inRow_row (.andReg x y), ⟨_, rfl, s.setReg_bitwise x y fun _ => BitVec.getLsbD_and⟩,
    inRow_row (.xorReg x y), ⟨_, rfl, s.setReg_bitwise x y fun _ => BitVec.getLsbD_xor⟩⟩

/-- Settles O45: the byte written is the free byte masked with the literal, and the draw is counted beside it. -/
theorem rndMasksTheRandomByte : Obligations.RndMasksTheRandomByte := by
  intro x kk s
  have hreg : ((s.setReg x (s.rnd &&& kk)).drawn).reg x = Config.randomByte s.draws &&& kk :=
    s.reg_setReg_self x (s.rnd &&& kk)
  refine ⟨inRow_row (.rnd x kk), _, rfl, fun k _ => ?_, ?_, rfl, ?_⟩
  · rw [hreg, BitVec.getLsbD_and]
  · rw [hreg, BitVec.and_assoc, BitVec.and_not_self]
    exact BitVec.and_zero
  · exact ((s.setReg_frame x _).single (by simp)).trans ((State.drawn_frame _).single (by simp))

/-! ### The flag bytes (10_state.md R22) -/

theorem flagByte_carryFlag (a b : Byte) :
    flagByte (carryFlag a b) = if a.toNat + b.toNat > 255 then 1 else 0 := by
  simp [flagByte, carryFlag]

theorem flagByte_noBorrowFlag (a b : Byte) :
    flagByte (noBorrowFlag a b) = if b.toNat > a.toNat then 0 else 1 := by
  simp only [flagByte, noBorrowFlag, Bool.not_eq_true', decide_eq_false_iff_not, ite_not]

/-! ### Data results as numbers (42_load_alu.md R167 to R170) -/

theorem toNat_byte_sub (a b : Byte) : ((a - b).toNat : Int) = ((a.toNat : Int) - b.toNat) % 256 := by
  have ha := a.isLt
  have hb := b.isLt
  rw [BitVec.toNat_sub]
  omega

theorem toNat_byte_shiftRight_one (a : Byte) : (a >>> 1).toNat = a.toNat / 2 := by
  rw [BitVec.toNat_ushiftRight, Nat.shiftRight_one]

theorem toNat_byte_shiftLeft_one (a : Byte) : (a <<< 1).toNat = a.toNat * 2 % 256 := by
  rw [BitVec.toNat_shiftLeft, Nat.shiftLeft_eq]

/-! ### Instructions that write VF and then Vx (42_load_alu.md R166 to R170, R173) -/

/-- The flag write and the data write after it: the data stands in Vx, the flag in VF unless VF is Vx. -/
theorem State.setFlagThenReg_spec (s : State) (c : Bool) (x : Reg) (b : Byte) :
    (s.setFlagThenReg c x b).reg x = b ∧ (x ≠ 15 → (s.setFlagThenReg c x b).reg 15 = flagByte c) ∧
      OnlyChanges (· ∈ [.reg x, .reg 15]) s (s.setFlagThenReg c x b) := by
  refine ⟨?_, fun hx => ?_, s.setFlagThenReg_frame c x b⟩
  · rw [State.reg_setFlagThenReg, if_pos rfl]
  · rw [State.reg_setFlagThenReg, if_neg hx.symm]
    exact if_pos rfl

/-- Settles O40: the sum of bytes is taken modulo 256, the carry from the unbounded sum. -/
theorem addSetsCarry : Obligations.AddSetsCarry := by
  intro x y s
  obtain ⟨hdata, hflag, hframe⟩ := s.setFlagThenReg_spec (carryFlag (s.reg x) (s.reg y)) x (s.reg x + s.reg y)
  refine ⟨inRow_row (.addReg x y), _, rfl, ?_, fun hx => (hflag hx).trans (flagByte_carryFlag _ _), hframe⟩
  rw [hdata, BitVec.toNat_add]

/-- Settles O41: the difference of bytes is the remainder of the integer difference. -/
theorem subSetsNotBorrow : Obligations.SubSetsNotBorrow := by
  intro x y s
  obtain ⟨hdata, hflag, hframe⟩ := s.setFlagThenReg_spec (noBorrowFlag (s.reg x) (s.reg y)) x (s.reg x - s.reg y)
  refine ⟨inRow_row (.subReg x y), _, rfl, ?_, fun hx => (hflag hx).trans (flagByte_noBorrowFlag _ _), hframe⟩
  rw [hdata, toNat_byte_sub]

/-- Settles O42: as SUB, with the operands of the difference and of the flag the other way round. -/
theorem subnSetsNotBorrow : Obligations.SubnSetsNotBorrow := by
  intro x y s
  obtain ⟨hdata, hflag, hframe⟩ := s.setFlagThenReg_spec (noBorrowFlag (s.reg y) (s.reg x)) x (s.reg y - s.reg x)
  refine ⟨inRow_row (.subnReg x y), _, rfl, ?_, fun hx => (hflag hx).trans (flagByte_noBorrowFlag _ _), hframe⟩
  rw [hdata, toNat_byte_sub]

/-- Settles O43: a shift by one is a division or a product by 2, and the flag is a bit of Vx as it was. -/
theorem shiftsCaptureTheBitShiftedOut : Obligations.ShiftsCaptureTheBitShiftedOut := by
  intro x y s
  obtain ⟨hlow, hlowFlag, hlowFrame⟩ := s.setFlagThenReg_spec (shiftedOutLow (s.reg x)) x (s.reg x >>> 1)
  obtain ⟨hhigh, hhighFlag, hhighFrame⟩ := s.setFlagThenReg_spec (shiftedOutHigh (s.reg x)) x (s.reg x <<< 1)
  refine ⟨inRow_row (.shr x y), ⟨_, rfl, ?_, hlowFlag, hlowFrame⟩,
    inRow_row (.shl x y), ⟨_, rfl, ?_, hhighFlag, hhighFrame⟩⟩
  · rw [hlow, toNat_byte_shiftRight_one]
  · rw [hhigh, toNat_byte_shiftLeft_one]

/-- Settles O44: every row is what O40 to O43 say of its instruction, read at x = 15 or at y = 15. -/
theorem dataStandsWhenVFIsTheDestination : Obligations.DataStandsWhenVFIsTheDestination := by
  intro x y s f v
  have hadd (x y : Reg) := (addSetsCarry x y s).2
  have hsub (x y : Reg) := (subSetsNotBorrow x y s).2
  have hsubn (x y : Reg) := (subnSetsNotBorrow x y s).2
  obtain ⟨-, hshr, -, hshl⟩ := shiftsCaptureTheBitShiftedOut 15 y s
  refine ⟨fun _ => ⟨?_, ?_, ?_⟩, ?_, ?_, ?_, ?_, ?_, fun hx => ⟨?_, ?_, ?_⟩⟩
  · exact (hadd 15 y).mono fun t ⟨hdata, _⟩ => hdata
  · exact (hsub 15 y).mono fun t ⟨hdata, _⟩ => hdata
  · exact (hsubn 15 y).mono fun t ⟨hdata, _⟩ => hdata
  · exact (hadd 15 15).mono fun t ⟨hdata, _⟩ => hdata.trans (by rw [← Nat.two_mul])
  · exact (hsub 15 15).mono fun t ⟨hdata, _⟩ => BitVec.eq_of_toNat_eq (by simpa using hdata)
  · exact (hsubn 15 15).mono fun t ⟨hdata, _⟩ => BitVec.eq_of_toNat_eq (by simpa using hdata)
  · exact hshr.mono fun t ⟨hdata, _⟩ => hdata
  · exact hshl.mono fun t ⟨hdata, _⟩ => hdata.trans (by rw [Nat.mul_comm])
  · exact (hadd x 15).mono fun t ⟨hdata, hflag, _⟩ => ⟨hdata, hflag hx⟩
  · exact (hsub x 15).mono fun t ⟨hdata, hflag, _⟩ => ⟨hdata, hflag hx⟩
  · exact (hsubn x 15).mono fun t ⟨hdata, hflag, _⟩ => ⟨hdata, hflag hx⟩

end Sys2Proof.Machine

/-! PROOFS of the family 43_index_memory.md: what the instructions of the address register write to I, to memory and to
the registers, and what a transfer that reaches above 0xFFF leaves. -/

namespace Sys2Proof.Machine

/-! ### Instructions that write I (43_index_memory.md R190 to R192) -/

/-- Settles O46: I is set to the literal, zero extended. -/
theorem ldILoadsTheLiteral : Obligations.LdILoadsTheLiteral :=
  fun nnn s => ⟨inRow_row (.ldI nnn), _, rfl, toNat_addrOperand nnn, s.setI_frame _⟩

theorem flagByte_exceedsFlag (r : Word) : flagByte (exceedsFlag r) = if r.toNat > 0x0FFF then 1 else 0 := by
  simp only [flagByte, exceedsFlag, decide_eq_true_eq]

/-- Settles O47: the sum of words is taken modulo 65536, and it is formed before VF is written. -/
theorem addIFlagsBeyondTwelveBits : Obligations.AddIFlagsBeyondTwelveBits := by
  intro x s
  have hsum : (s.i + wide (s.reg x)).toNat = (s.i.toNat + (s.reg x).toNat) % 65536 := by
    rw [BitVec.toNat_add, toNat_wide]
  refine ⟨inRow_row (.addIVx x), _, rfl, hsum, ?_, ?_⟩
  · rw [← hsum, ← flagByte_exceedsFlag]
    exact State.reg_setReg_self _ regVF _
  · exact ((s.setI_frame _).single (by simp)).trans ((State.setVF_frame _ _).single (by simp [regVF]))

/-- The glyph address is far below the 65536 that words wrap at (43_index_memory.md R192). -/
theorem toNat_glyphAddr (b : Byte) : (glyphAddr b).toNat = 5 * (b.toNat % 16) := by
  have hlow : (b.extractLsb' 0 4).toNat = b.toNat % 16 := by rw [BitVec.extractLsb'_toNat, Nat.shiftRight_zero]
  calc (glyphAddr b).toNat = 5 * (b.toNat % 16) % 65536 := by
        rw [glyphAddr, BitVec.toNat_mul, BitVec.toNat_setWidth_of_le (by decide), hlow]
        rfl
    _ = 5 * (b.toNat % 16) := Nat.mod_eq_of_lt (by omega)

/-- Settles O48: I is set to the glyph address of Vx. -/
theorem ldFPointsAtTheGlyph : Obligations.LdFPointsAtTheGlyph :=
  fun x s => ⟨inRow_row (.ldIF x), _, rfl, toNat_glyphAddr _, s.setI_frame _⟩

/-! ### The access primitives by the range of the run (20_memory.md R66, R67) -/

section
variable {s : State} {a : Nat}

/-- A run of one byte or more that reaches above 0xFFF is not stored (20_memory.md R67). -/
theorem State.memWrite_of_gt {bytes : List Byte} (h : 0x1000 < a + bytes.length) (hne : bytes.length ≠ 0) :
    Completes (s.memWrite a bytes) (FaultedFrom s .writeRange (max a 0x1000)) :=
  ⟨_, if_neg (Bool.eq_false_iff.mp (inRange_eq_false h hne)), s.raise_faultedFrom _ _⟩

/-- A read whose bytes all have an address (20_memory.md R66). -/
theorem State.memRead_of_le {n : Nat} {k : List Byte → Host.Outcome State Fault Refusal} (h : a + n ≤ 0x1000) :
    s.memRead a n k = k (Memory.readRun s.mem a n) :=
  if_pos ((inRange_iff _ _).mpr (.inr h))

/-- A run of one byte or more that reaches above 0xFFF is not read (20_memory.md R66). -/
theorem State.memRead_of_gt {n : Nat} {k : List Byte → Host.Outcome State Fault Refusal} (h : 0x1000 < a + n)
    (hne : n ≠ 0) : Completes (s.memRead a n k) (FaultedFrom s .readRange (max a 0x1000)) :=
  ⟨_, if_neg (Bool.eq_false_iff.mp (inRange_eq_false h hne)), s.raise_faultedFrom _ _⟩

/-- Byte j of a run stored is at a + j (20_memory.md R67). -/
theorem State.byte_storeRun {ws : List Byte} {j : Nat} (hj : j < ws.length) :
    (s.setMem (Memory.writeRun s.mem a ws)).byte (a + j) = ws.getD j 0 := by
  rw [State.byte_setMem_writeRun, if_pos (by omega), Nat.add_sub_cancel_left]

end

/-! ### LD B,Vx (43_index_memory.md R193) -/

@[simp] theorem length_bcdDigits (b : Byte) : (bcdDigits b).length = 3 := rfl

/-- The digits of a byte are below 256, so each is the value of its own byte. -/
theorem toNat_getD_bcdDigits (b : Byte) :
    ((bcdDigits b).getD 0 0).toNat = b.toNat / 100 ∧ ((bcdDigits b).getD 1 0).toNat = b.toNat / 10 % 10 ∧
      ((bcdDigits b).getD 2 0).toNat = b.toNat % 10 := by
  have hb := b.isLt
  exact ⟨Nat.mod_eq_of_lt (by omega), Nat.mod_eq_of_lt (by omega), Nat.mod_eq_of_lt (by omega)⟩

/-- Settles O49: the run stored is the three digits, in range when its last address is. -/
theorem bcdStoresThreeDigits : Obligations.BcdStoresThreeDigits := by
  refine fun x s => ⟨inRow_row (.ldB x), fun hle => ?_, fun hgt => ?_⟩
  · obtain ⟨hhundreds, htens, hones⟩ := toNat_getD_bcdDigits (s.reg x)
    have hbyte (j : Fin 3) := State.byte_storeRun (s := s) (a := s.i.toNat) (ws := bcdDigits (s.reg x)) j.isLt
    refine ⟨_, State.memWrite_of_le (by rw [length_bcdDigits]; omega), ?_, ?_, ?_,
      s.storeRun_frame s.i.toNat (bcdDigits (s.reg x))⟩
    · exact (congrArg _ (hbyte 0)).trans hhundreds
    · exact (congrArg _ (hbyte 1)).trans htens
    · exact (congrArg _ (hbyte 2)).trans hones
  · exact State.memWrite_of_gt (by rw [length_bcdDigits]; omega) (by simp)

/-! ### LD [I],Vx and LD Vx,[I] (43_index_memory.md R194, R195) -/

/-- Settles O50: the run stored is V[0], …, V[x], in range when its last address is. -/
theorem storeRegsCopiesToMemory : Obligations.StoreRegsCopiesToMemory := by
  refine fun x s => ⟨inRow_row (.storeRegs x), fun hle => ?_, fun hgt => ?_⟩
  · have hframe := s.storeRun_frame s.i.toNat (s.regsUpTo x)
    rw [State.length_regsUpTo] at hframe
    exact ⟨_, execStoreRegs_of_le hle, fun _ hj => State.byte_storeRegs _ hj, rfl, hframe⟩
  · exact State.memWrite_of_gt (by rw [State.length_regsUpTo]; omega) (by simp)

/-- LD Vx,[I] whose last byte has an address loads the bytes from I (43_index_memory.md R195). -/
theorem execLoadRegs_of_le {x : Reg} {s : State} (h : s.i.toNat + x ≤ 0xFFF) :
    execLoadRegs x s = .next (s.setRegs (Memory.readRun s.mem s.i.toNat (x + 1))) :=
  State.memRead_of_le (by omega)

/-- LD Vx,[I] whose last byte is above 0xFFF loads nothing (43_index_memory.md R195). -/
theorem execLoadRegs_of_gt {x : Reg} {s : State} (h : 0xFFF < s.i.toNat + x) :
    Completes (execLoadRegs x s) (FaultedFrom s .readRange (max s.i.toNat 0x1000)) := by
  unfold execLoadRegs
  exact State.memRead_of_gt (by omega) (Nat.succ_ne_zero _)

/-- Settles O51: the registers loaded are those the run read has an entry for. -/
theorem loadRegsCopiesFromMemory : Obligations.LoadRegsCopiesFromMemory := by
  refine fun x s => ⟨inRow_row (.loadRegs x), fun hle => ?_, fun hgt => ?_⟩
  · refine ⟨_, execLoadRegs_of_le hle, fun j hj => ?_, rfl, (s.setRegs_frame _).mono ?_⟩
    · rw [State.reg_setRegs, Memory.getD_readRun _ _ _ _ _ (Nat.lt_succ_of_le hj)]
      rfl
    · rintro it ⟨j, rfl, hj⟩
      rw [Memory.length_readRun] at hj
      exact ⟨j, rfl, Nat.le_of_lt_succ hj⟩
  · exact execLoadRegs_of_gt hgt

/-- Settles O52: the load finds I and the bytes as the store left them, and its frame holds the higher registers. -/
theorem storeThenLoadRestoresRegisters : Obligations.StoreThenLoadRestoresRegisters := by
  intro x s v hle
  obtain ⟨-, hstore, -⟩ := storeRegsCopiesToMemory x s
  obtain ⟨t, ht, hbytes, hi, -⟩ := hstore hle
  obtain ⟨-, hload, -⟩ := loadRegsCopiesFromMemory x { t with v := v }
  obtain ⟨u, hu, hregs, -, hframe⟩ := hload (by rwa [hi])
  refine ⟨t, ht, u, hu, fun j hj => ?_, fun j hj => hframe (.reg j) ?_⟩
  · calc u.reg j = t.byte (t.i.toNat + j) := hregs j hj
      _ = t.byte (s.i.toNat + j) := by rw [hi]
      _ = s.reg j := hbytes j hj
  · rintro ⟨r, hr, hrx⟩
    cases hr
    exact absurd hrx (not_le.mpr hj)

end Sys2Proof.Machine

/-! PROOFS of the family 44_display.md: what CLS and DRW do to the display cell by cell, and that no other step writes
it. -/

namespace Sys2Proof.Machine

/-! ### CLS (44_display.md R210) -/

/-- Settles O54: the blank display has every cell off, and the strobe is recorded beside it. -/
theorem clsBlanksTheDisplay : Obligations.ClsBlanksTheDisplay := by
  refine ⟨inRow_row .cls, fun w hw => ?_, fun s => ⟨_, rfl, fun r c => Display.pixel_blank r c, rfl, ?_⟩⟩
  · exact decodeWord_of_mapReads ⟨beq_iff_eq.mpr hw, by simp [opcodeMap]⟩
  · exact execChangesOnlyItsWriteSet .cls s _ rfl

/-! ### The sprite that DRW draws (44_display.md R211, R212) -/

theorem flagByte_eq_one_iff (c : Bool) : flagByte c = 1 ↔ c = true := by
  cases c <;> decide

section
variable (s : State) (x y : Reg) (n : Fin 16)

/-- The sprite of `DRW Vx,Vy,n`, placed at (Vx mod 64, Vy mod 32), has a set bit at cell (r, c). -/
def State.drwCovers (r c : Nat) : Bool :=
  spriteCovers ((s.reg x).toNat % 64) ((s.reg y).toNat % 32) (Memory.readRun s.mem s.i.toNat n) r c

/-- The display and the collision after that sprite is drawn. -/
def State.drwResult : Display × Bool :=
  blit s.disp ((s.reg x).toNat % 64) ((s.reg y).toNat % 32) (Memory.readRun s.mem s.i.toNat n)

/-- The state `DRW Vx,Vy,n` leaves when it reads its sprite. -/
def State.drwDone : State := (s.setDisp (s.drwResult x y n).1).setVF (s.drwResult x y n).2

/-- Sprite row r - Vy mod 32 is the byte at I + (r - Vy mod 32), and bit 7 is its left column (44_display.md R212). -/
theorem State.drwCovers_iff (r c : Nat) :
    s.drwCovers x y n r c = true ↔
      (s.reg y).toNat % 32 ≤ r ∧ r < (s.reg y).toNat % 32 + n ∧
      (s.reg x).toNat % 64 ≤ c ∧ c < (s.reg x).toNat % 64 + 8 ∧
      (s.byte (s.i.toNat + (r - (s.reg y).toNat % 32))).getLsbD (7 - (c - (s.reg x).toNat % 64)) = true := by
  simp only [State.drwCovers, spriteCovers, Memory.length_readRun, Bool.and_eq_true, decide_eq_true_eq, and_assoc]
  refine and_congr_right fun hy => and_congr_right fun hn => ?_
  rw [Memory.getD_readRun _ _ _ _ _ (by omega)]
  rfl

/-- A sprite whose bytes all have an address is drawn, and one of no rows too. -/
theorem execDrw_of_fits (h : n = 0 ∨ s.i.toNat + n ≤ 0x1000) : execDrw x y n s = .next (s.drwDone x y n) := by
  refine if_pos ((inRange_iff _ _).mpr (h.imp_left ?_))
  rintro rfl
  rfl

/-- A sprite with a byte above 0xFFF is not read (20_memory.md R78). -/
theorem execDrw_of_gt (hne : n ≠ 0) (h : 0x1000 < s.i.toNat + n) :
    Completes (execDrw x y n s) (FaultedFrom s .readRange (max s.i.toNat 0x1000)) := by
  unfold execDrw
  exact State.memRead_of_gt h (Fin.val_ne_zero_iff.mpr hne)

/-- Each cell is XORed with the sprite's bit there. -/
theorem State.pixel_drwDone (r : Fin 32) (c : Fin 64) :
    Display.pixel (s.drwDone x y n).disp r c = (Display.pixel s.disp r c ^^ s.drwCovers x y n r c) := by
  obtain ⟨hpixel, -⟩ := blitRows_spec ((s.reg x).toNat % 64) (Memory.readRun s.mem s.i.toNat n)
    ((s.reg y).toNat % 32) s.disp false
  exact hpixel r c r.isLt c.isLt

/-- The collision is a covered cell that was on. -/
theorem State.drwResult_hit :
    (s.drwResult x y n).2 = true ↔
      ∃ (r : Fin 32) (c : Fin 64), s.drwCovers x y n r c = true ∧ Display.pixel s.disp r c = true := by
  obtain ⟨-, hhit⟩ := blitRows_spec ((s.reg x).toNat % 64) (Memory.readRun s.mem s.i.toNat n)
    ((s.reg y).toNat % 32) s.disp false
  refine hhit.trans ⟨?_, ?_⟩
  · rintro (hno | ⟨r, c, hr, hc, hcov, hon⟩)
    · cases hno
    · exact ⟨⟨r, hr⟩, ⟨c, hc⟩, hcov, hon⟩
  · rintro ⟨r, c, hcov, hon⟩
    exact .inr ⟨r, c, r.isLt, c.isLt, hcov, hon⟩

/-- VF holds the collision as a flag byte. -/
theorem State.drwDone_vf : (s.drwDone x y n).reg 15 = flagByte (s.drwResult x y n).2 :=
  State.reg_setReg_self _ regVF _

theorem State.drwDone_frame : OnlyChanges (fun it => it.isCell ∨ it = .reg 15) s (s.drwDone x y n) :=
  ((s.setDisp_frame _).mono fun _ => .inl).trans ((State.setVF_frame _ _).single (.inr rfl))

end

/-- Settles O55: a sprite in range is drawn cell by cell, and one with a byte above 0xFFF is not read. -/
theorem drwXorsTheSprite : Obligations.DrwXorsTheSprite := by
  refine fun x y n s => ⟨inRow_row (.drw x y n), ?_⟩
  simp only [← State.drwCovers_iff]
  refine ⟨fun hfits => ⟨_, execDrw_of_fits s x y n hfits, fun r c => ⟨fun hcov => ?_, fun hcov => ?_⟩,
    fun hhit => ?_, fun hhit => ?_, s.drwDone_frame x y n⟩, fun hne hgt => ?_⟩
  · rw [State.pixel_drwDone, hcov, Bool.xor_true]
  · rw [State.pixel_drwDone, Bool.eq_false_iff.mpr hcov, Bool.xor_false]
  · rw [State.drwDone_vf, (s.drwResult_hit x y n).mpr hhit]
    rfl
  · rw [← State.drwResult_hit, Bool.not_eq_true] at hhit
    rw [State.drwDone_vf, hhit]
    rfl
  · exact execDrw_of_gt s x y n hne hgt

/-- DRW leaves I and memory, so with the coordinates kept the sprite lies where it lay. -/
theorem State.drwCovers_drwDone {s : State} {x y : Reg} {n : Fin 16}
    (hx : ((s.drwDone x y n).reg x).toNat % 64 = (s.reg x).toNat % 64)
    (hy : ((s.drwDone x y n).reg y).toNat % 32 = (s.reg y).toNat % 32) :
    (s.drwDone x y n).drwCovers x y n = s.drwCovers x y n := by
  funext r c
  rw [State.drwCovers, hx, hy]
  rfl

/-- Settles O56: the same bits XORed twice cancel, and the second draw collides where the first turned a cell on. -/
theorem drawingTwiceRestoresTheDisplay : Obligations.DrawingTwiceRestoresTheDisplay := by
  intro x y n s t hfits hdraw hx hy
  obtain rfl : s.drwDone x y n = t := Host.Outcome.next.inj ((execDrw_of_fits s x y n hfits).symm.trans hdraw)
  have hcov := State.drwCovers_drwDone hx hy
  refine ⟨_, execDrw_of_fits _ x y n hfits, fun r c => ?_, ?_⟩
  · rw [State.pixel_drwDone, hcov, State.pixel_drwDone, Bool.xor_assoc, Bool.xor_self, Bool.xor_false]
  · rw [State.drwDone_vf, flagByte_eq_one_iff, State.drwResult_hit, hcov]
    refine exists_congr fun r => exists_congr fun c => ?_
    rw [State.pixel_drwDone]
    cases Display.pixel s.disp r c <;> simp

/-! ### No other step (44_display.md R213) -/

theorem writeSet_cell {s : State} {i : Instr} {r : Fin 32} {c : Fin 64} (h : writeSet s i (.cell r c)) :
    i = .cls ∨ ∃ x y n, i = .drw x y n := by
  cases i with
  | cls => exact .inl rfl
  | drw x y n => exact .inr ⟨x, y, n, rfl⟩
  | _ => simp [writeSet, Item.inRun] at h

/-- A Cycle that changes a cell executes CLS or DRW. -/
theorem decodeWord_of_cycleEvent_changes_cell {s t : State} {r : Fin 32} {c : Fin 64} (h : cycleEvent s = .next t)
    (hne : Display.pixel t.disp r c ≠ Display.pixel s.disp r c) :
    s.running ∧ ∃ w, s.fetchWord = some w ∧
      (decodeWord w = some .cls ∨ ∃ x y n, decodeWord w = some (.drw x y n)) := by
  rcases cycleEvent_cases s with ⟨-, ho⟩ | ⟨-, -, ho⟩ | ⟨w, -, -, -, ho⟩ | ⟨w, i, hrun, hw, hi, ho⟩
  · exact absurd (onlyChanges_of_next (.refl (fun _ => False) s) (ho ▸ h) (.cell r c) id) hne
  · exact absurd (onlyChanges_of_next (s.takeFault_frame _ _ _) (ho ▸ h) (.cell r c) (by simp)) hne
  · exact absurd (onlyChanges_of_next (State.emit_frame s.advance _) (ho ▸ h) (.cell r c) (by simp)) hne
  · have hcell : writeSet s.advance i (.cell r c) :=
      not_not.mp fun hn => hne (execChangesOnlyItsWriteSet i s.advance t (ho ▸ h) (.cell r c) hn)
    refine ⟨hrun, w, hw, ?_⟩
    rcases writeSet_cell hcell with rfl | ⟨x, y, n, rfl⟩
    · exact .inl hi
    · exact .inr ⟨x, y, n, hi⟩

/-- Settles O25: a Tick writes no cell, and a Cycle fetches the word that the count of cycles does not move. -/
theorem onlyClsAndDrwWriteTheDisplay : Obligations.OnlyClsAndDrwWriteTheDisplay := by
  intro s t r c hstep hne
  rcases step_cases s with ⟨-, ho⟩ | ⟨n, -, ho⟩
  · exact absurd (onlyChanges_of_next (tickEvent_frame _ _ s.startPeriod) (ho ▸ hstep) (.cell r c) (by simp)) hne
  · exact decodeWord_of_cycleEvent_changes_cell (s := s.setCyclesLeft n) (ho ▸ hstep) hne

end Sys2Proof.Machine

/-! PROOFS of the family 45_keys_timers.md: how SKP, SKNP and LD Vx,K read the key vectors, the wait of LD Vx,K, and
the transfers between Vx and the timers. -/

namespace Sys2Proof.Machine

/-! ### SKP and SKNP (45_keys_timers.md R230, R231) -/

section
variable {s : State} {vec : Word} {b : Byte} {k : Bool → State}

theorem State.keyOperand_of_le (h : b.toNat ≤ 15) : s.keyOperand vec b k = k (keyBit vec b.toNat) := if_pos h

theorem State.keyOperand_of_gt (h : 15 < b.toNat) : s.keyOperand vec b k = s.raise .keyIndex b.toNat :=
  if_neg (Nat.not_le.mpr h)

end

/-- A key skip by the bit of a key code up to 15: both instructions test it, SKNP negated. -/
theorem keySkip_of_le (s : State) {vec : Word} {b : Byte} {test : Bool → Bool} {p : Prop} (h : b.toNat ≤ 15)
    (hp : test (keyBit vec b.toNat) = true ↔ p) :
    Completes (.next (s.keyOperand vec b fun down => s.skipIf (test down))) (fun t =>
      (p → t.pc.toNat = (s.pc.toNat + 2) % 65536) ∧ (¬ p → t.pc = s.pc) ∧ OnlyChanges (· ∈ [.pc]) s t) :=
  ⟨_, congrArg _ (State.keyOperand_of_le h), s.skipIf_of_iff hp⟩

/-- A key code above 15 faults, whatever is done with the bit. -/
theorem keyOperand_faults_of_gt (s : State) {vec : Word} {b : Byte} {k : Bool → State} (h : 15 < b.toNat) :
    Completes (.next (s.keyOperand vec b k)) (FaultedFrom s .keyIndex b.toNat) :=
  ⟨_, congrArg _ (State.keyOperand_of_gt h), s.raise_faultedFrom _ _⟩

/-- Settles O57: the two instructions skip by the held bit and by its negation, and share the fault. -/
theorem keySkipsReadHeld : Obligations.KeySkipsReadHeld := by
  intro x s skips
  refine ⟨inRow_row (.skp x), inRow_row (.sknp x), fun hle => ⟨?_, ?_⟩, fun hgt => ⟨?_, ?_⟩⟩
  · exact keySkip_of_le s (test := id) hle Iff.rfl
  · exact keySkip_of_le s (test := not) hle (Bool.not_eq_true' _).to_iff
  · exact keyOperand_faults_of_gt s hgt
  · exact keyOperand_faults_of_gt s hgt

/-! ### LD Vx,K (45_keys_timers.md R232) -/

theorem execLdVxK_of_some {x : Reg} {s : State} {k : Nat} (h : leastKey s.rel = some k) :
    execLdVxK x s = .next (s.setReg x (BitVec.ofNat 8 k)) := by
  simp only [execLdVxK, h]

theorem execLdVxK_of_none {x : Reg} {s : State} (h : leastKey s.rel = none) : execLdVxK x s = .next s.rewind := by
  simp only [execLdVxK, h]

/-- Settles O58: the key taken is the `leastKey` of REL, and a key code fits a byte. -/
theorem keyWaitTakesTheLeastReleasedKey : Obligations.KeyWaitTakesTheLeastReleasedKey := by
  refine fun x s => ⟨inRow_row (.ldVxK x), fun k hk hset hleast => ?_, fun hnone => ?_⟩
  · refine ⟨_, execLdVxK_of_some (leastKey_eq_some.mpr ⟨hk, hset, hleast⟩), ?_, s.setReg_frame x _⟩
    rw [State.reg_setReg_self]
    exact Nat.mod_eq_of_lt (by omega)
  · exact ⟨_, execLdVxK_of_none (leastKey_eq_none.mpr hnone), rfl, s.setPC_frame _⟩

/-- Going back undoes the increment after the fetch. -/
@[simp] theorem State.rewind_advance (s : State) : s.advance.rewind = s := by
  change { s with pc := s.pc + 2 - 2 } = s
  rw [BitVec.add_sub_cancel]

theorem leastKey_zero : leastKey 0 = none := by decide

/-- One cycle of the wait uses up the cycle and leaves the state. -/
theorem step_of_keyWait {s : State} {x : Reg} {w : Word} {n : Nat} (hrun : s.running) (hw : s.fetchWord = some w)
    (hdec : decodeWord w = some (.ldVxK x)) (hrel : s.rel = 0) (hn : s.cyclesLeft = n + 1) :
    step s = .next (s.setCyclesLeft n) := by
  have hnone : leastKey (s.setCyclesLeft n).advance.rel = none := (congrArg leastKey hrel).trans leastKey_zero
  calc step s = executeWord w (s.setCyclesLeft n).advance := step_of_fetchWord hrun hn hw
    _ = execLdVxK x (s.setCyclesLeft n).advance := executeWord_of_decodeWord hdec _
    _ = .next (s.setCyclesLeft n).advance.rewind := execLdVxK_of_none hnone
    _ = .next (s.setCyclesLeft n) := by rw [State.rewind_advance]

/-- Settles O59, by induction on the cycles run: the count is no part of what the wait reads, so after one cycle the
machine waits still. -/
theorem keyWaitSpendsThePeriod : Obligations.KeyWaitSpendsThePeriod := by
  intro k
  induction k with
  | zero => exact fun x s w _ _ _ _ _ => rfl
  | succ k ih =>
    intro x s w hrun hw hdec hrel hk
    obtain ⟨n, hn⟩ : ∃ n, s.cyclesLeft = n + 1 := ⟨s.cyclesLeft - 1, by omega⟩
    have hrest := ih x (s.setCyclesLeft n) w hrun hw hdec hrel (by rw [State.setCyclesLeft_cyclesLeft]; omega)
    rw [run_succ (step_of_keyWait hrun hw hdec hrel hn), hrest, hn, Nat.add_sub_add_right]
    rfl

/-! ### The timers (45_keys_timers.md R233 to R235) -/

/-- Settles O60: each transfer is one write, of the register or of the timer. -/
theorem timerTransfersMoveOneByte : Obligations.TimerTransfersMoveOneByte := fun x s =>
  ⟨inRow_row (.ldVxDT x), ⟨_, rfl, s.reg_setReg_self x s.dt, s.setReg_frame x s.dt⟩,
    inRow_row (.ldDTVx x), ⟨_, rfl, s.setDT_dt (s.reg x), s.setDT_frame (s.reg x)⟩,
    inRow_row (.ldSTVx x), ⟨_, rfl, s.setST_st (s.reg x), s.setST_frame (s.reg x)⟩⟩

end Sys2Proof.Machine

/-! PROOFS of the family 60_exceptions.md: which faults a Cycle can raise and what it leaves then, what Ticks do, and
which steps emit a strobe. -/

namespace Sys2Proof.Machine

/-! ### Faults of the execute phase (60_exceptions.md R252, R253) -/

/-- The rows of R252 for the execute phase: which instruction raises which cause with which info, and when. -/
inductive ExecRaises (s : State) : Instr → FaultCause → Nat → Prop where
  | drw (x y : Reg) (n : Fin 16) : inRange s.i.toNat n = false →
      ExecRaises s (.drw x y n) .readRange (firstOutOfRange s.i.toNat)
  | loadRegs (x : Reg) : inRange s.i.toNat (x + 1) = false →
      ExecRaises s (.loadRegs x) .readRange (firstOutOfRange s.i.toNat)
  | ldB (x : Reg) : inRange s.i.toNat 3 = false →
      ExecRaises s (.ldB x) .writeRange (firstOutOfRange s.i.toNat)
  | storeRegs (x : Reg) : inRange s.i.toNat (x + 1) = false →
      ExecRaises s (.storeRegs x) .writeRange (firstOutOfRange s.i.toNat)
  | skp (x : Reg) : 15 < (s.reg x).toNat → ExecRaises s (.skp x) .keyIndex (s.reg x).toNat
  | sknp (x : Reg) : 15 < (s.reg x).toNat → ExecRaises s (.sknp x) .keyIndex (s.reg x).toNat

section
variable {s t : State}

theorem State.memRead_fault_cases {a n : Nat} {k : List Byte → Host.Outcome State Fault Refusal}
    (h : s.memRead a n k = .next t) (hk : ∀ bytes u, k bytes = .next u → u.fault = s.fault) :
    t.fault = s.fault ∨ (inRange a n = false ∧ t = s.raise .readRange (firstOutOfRange a)) :=
  (State.memRead_cases h).imp (fun ⟨_, ho⟩ => hk _ t ho.symm) (fun ⟨hr, ho⟩ => ⟨hr, Host.Outcome.next.inj ho⟩)

theorem State.memWrite_fault_cases {a : Nat} {bytes : List Byte} (h : s.memWrite a bytes = .next t) :
    t.fault = s.fault ∨ (inRange a bytes.length = false ∧ t = s.raise .writeRange (firstOutOfRange a)) :=
  (State.memWrite_cases h).imp (fun ⟨_, ho⟩ => Host.Outcome.next.inj ho ▸ rfl)
    (fun ⟨hr, ho⟩ => ⟨hr, Host.Outcome.next.inj ho⟩)

/-- A skip by a key bit, whatever the test of the bit. -/
theorem State.keySkip_fault_cases (s : State) (vec : Word) (b : Byte) (test : Bool → Bool) :
    let t := s.keyOperand vec b fun down => s.skipIf (test down)
    t.fault = s.fault ∨ (15 < b.toNat ∧ t = s.raise .keyIndex b.toNat) :=
  (s.keyOperand_cases vec b _).imp_left fun ⟨_, ho⟩ => ho ▸ s.skipIf_frame _ .fault (by simp)

theorem execDrw_fault_cases {x y : Reg} {n : Fin 16} (h : execDrw x y n s = .next t) :
    t.fault = s.fault ∨ (inRange s.i.toNat n = false ∧ t = s.raise .readRange (firstOutOfRange s.i.toNat)) :=
  State.memRead_fault_cases h fun _ _ hu => Host.Outcome.next.inj hu ▸ rfl

theorem execLoadRegs_fault_cases {x : Reg} (h : execLoadRegs x s = .next t) :
    t.fault = s.fault ∨ (inRange s.i.toNat (x + 1) = false ∧ t = s.raise .readRange (firstOutOfRange s.i.toNat)) :=
  State.memRead_fault_cases h fun _ _ hu => Host.Outcome.next.inj hu ▸ rfl

/-- What an execute phase does to FAULT: nothing, or it raises a fault of R252 and does nothing else. The 28 instructions
with no row do not have FAULT in their write sets. -/
theorem exec_fault_cases {i : Instr} (h : exec i s = .next t) :
    t.fault = s.fault ∨ ∃ cause info, ExecRaises s i cause info ∧ t = s.raise cause info := by
  cases i with
  | drw x y n => exact (execDrw_fault_cases h).imp_right fun ⟨hr, ht⟩ => ⟨_, _, .drw x y n hr, ht⟩
  | loadRegs x => exact (execLoadRegs_fault_cases h).imp_right fun ⟨hr, ht⟩ => ⟨_, _, .loadRegs x hr, ht⟩
  | ldB x => exact (State.memWrite_fault_cases h).imp_right fun ⟨hr, ht⟩ => ⟨_, _, .ldB x hr, ht⟩
  | storeRegs x =>
    exact (State.memWrite_fault_cases h).imp_right fun ⟨hr, ht⟩ =>
      ⟨_, _, .storeRegs x (s.length_regsUpTo x ▸ hr), ht⟩
  | skp x =>
    obtain rfl := Host.Outcome.next.inj h
    exact (s.keySkip_fault_cases s.held (s.reg x) id).imp_right fun ⟨hgt, ht⟩ => ⟨_, _, .skp x hgt, ht⟩
  | sknp x =>
    obtain rfl := Host.Outcome.next.inj h
    exact (s.keySkip_fault_cases s.held (s.reg x) not).imp_right fun ⟨hgt, ht⟩ => ⟨_, _, .sknp x hgt, ht⟩
  | _ => exact .inl (execChangesOnlyItsWriteSet _ s t h .fault (by simp [writeSet, Item.isCell]))

end

/-! ### Faults of a Cycle (60_exceptions.md R254) -/

theorem State.fetchWord_eq_none_iff {s : State} : s.fetchWord = none ↔ 0xFFF ≤ s.pc.toNat := by
  constructor
  · intro h
    by_contra hlt
    rw [State.fetchWord_of_le (by omega)] at h
    cases h
  · intro hpc
    by_contra hsome
    obtain ⟨w, hw⟩ := Option.ne_none_iff_exists'.mp hsome
    obtain ⟨hle, -⟩ := State.fetchWord_eq_some hw
    omega

theorem cycleEvent_of_fetchWord_none {s : State} (hrun : s.running) (hw : s.fetchWord = none) :
    cycleEvent s = .next (s.takeFault s.pc .fetchRange (firstOutOfRange s.pc.toNat)) := by
  simp [cycleEvent, show s.frozen = false from hrun, hw]

/-- A fault raised after the fetch undoes the increment of PC. -/
theorem State.raise_advance (s : State) (cause : FaultCause) (info : Nat) :
    s.advance.raise cause info = s.takeFault s.pc cause info := by
  change s.takeFault (s.pc + 2 - 2) cause info = _
  rw [BitVec.add_sub_cancel]

/-- A fault taken at the present PC changes nothing but FAULT. -/
theorem State.takeFault_pc_frame (s : State) (cause : FaultCause) (info : Nat) :
    OnlyChanges (· ∈ [.fault]) s (s.takeFault s.pc cause info) := by
  intro it h
  cases it with
  | fault => simp at h
  | _ => rfl

/-- The four faults of R252: of the fetch, or of the execute phase of an instruction. -/
def CycleRaises (s : State) (cause : FaultCause) (info : Nat) : Prop :=
  (0xFFF ≤ s.pc.toNat ∧ cause = .fetchRange ∧ info = firstOutOfRange s.pc.toNat) ∨
    ∃ i, ExecRaises s.advance i cause info

/-- A Cycle of a running machine that leaves a fault took one of the four where the cycle began. -/
theorem cycleEvent_raises {s t : State} (hrun : s.running) (h : cycleEvent s = .next t) (hne : t.fault.cause ≠ .none) :
    ∃ cause info, CycleRaises s cause info ∧ t = s.takeFault s.pc cause info := by
  have hnone := State.running_iff.mp hrun
  rcases cycleEvent_cases s with ⟨hfrozen, -⟩ | ⟨-, hw, ho⟩ | ⟨w, -, -, -, ho⟩ | ⟨w, i, -, -, -, ho⟩
  · exact absurd hnone (State.frozen_iff.mp hfrozen)
  · exact ⟨_, _, .inl ⟨State.fetchWord_eq_none_iff.mp hw, rfl, rfl⟩, Host.Outcome.next.inj (h.symm.trans ho)⟩
  · obtain rfl := Host.Outcome.next.inj (h.symm.trans ho)
    exact absurd hnone hne
  · rcases exec_fault_cases (ho ▸ h) with hsame | ⟨cause, info, hraise, rfl⟩
    · exact absurd hnone (hsame ▸ hne)
    · exact ⟨cause, info, .inr ⟨i, hraise⟩, s.raise_advance cause info⟩

/-- Settles O11: a Cycle that leaves a fault took one of the four at the PC it began with, and is frozen then. -/
theorem faultUndoesTheCycle : Obligations.FaultUndoesTheCycle := by
  intro s t hrun h hne
  have hfrozen : t.frozen = true := State.frozen_iff.mpr hne
  obtain ⟨cause, info, hraise, rfl⟩ := cycleEvent_raises hrun h hne
  refine ⟨s.takeFault_pc_frame cause info, ?_, cycleEvent_of_frozen hfrozen,
    fun held released => tickEvent_of_frozen held released hfrozen⟩
  rcases hraise with ⟨hpc, rfl, rfl⟩ | ⟨i, hexec⟩
  · exact .inl ⟨hpc, rfl⟩
  · cases hexec with
    | drw | loadRegs => exact .inr (.inl rfl)
    | ldB | storeRegs => exact .inr (.inr (.inl rfl))
    | skp x hgt | sknp x hgt => exact .inr (.inr (.inr ⟨x, hgt, rfl⟩))

/-- Settles O10: the fetch by its range, the execute phase by the table of R252, which has no row for an UNKNOWN word. -/
theorem whichInstructionRaisesWhat : Obligations.WhichInstructionRaisesWhat := by
  refine ⟨fun s hrun hpc => ?_, fun i s t hnone h => ?_, fun s t w hnone h hw => ?_⟩
  · exact ⟨_, cycleEvent_of_fetchWord_none hrun (State.fetchWord_eq_none_iff.mpr hpc), rfl⟩
  · rcases exec_fault_cases h with hsame | ⟨cause, info, hraise, rfl⟩
    · simp [hsame, hnone]
    · cases hraise with
      | drw x y n => exact .inl ⟨x, y, n, rfl⟩
      | loadRegs x => exact .inr ⟨x, rfl⟩
      | ldB x => exact .inl ⟨x, rfl⟩
      | storeRegs x => exact .inr ⟨x, rfl⟩
      | skp x => exact .inl ⟨x, rfl⟩
      | sknp x => exact .inr ⟨x, rfl⟩
  · rw [executeWord_of_unknown hw] at h
    exact Host.Outcome.next.inj h ▸ hnone

/-! ### Ticks (60_exceptions.md R258 to R260) -/

/-- A Tick of a running machine, field by field; the machine stays running. -/
theorem tickEvent_spec {s : State} (held released : Word) (hrun : s.running) :
    let t := tickEvent held released s
    t.running ∧ t.dt.toNat = s.dt.toNat - 1 ∧ t.st.toNat = s.st.toNat - 1 ∧ t.held = held ∧ t.rel = released := by
  rw [tickEvent_of_running held released hrun]
  exact ⟨hrun, toNat_countDown s.dt, toNat_countDown s.st, rfl, rfl⟩

/-- Settles O14: a frozen machine ignores the Tick; a running one takes both vectors whole. -/
theorem tickCountsDownAndReloadsKeys : Obligations.TickCountsDownAndReloadsKeys := by
  refine fun held released s => ⟨fun hne => tickEvent_of_frozen held released (State.frozen_iff.mpr hne), fun hnone => ?_⟩
  obtain ⟨-, hdt, hst, hheld, hrel⟩ := tickEvent_spec held released (State.running_iff.mpr hnone)
  have hstop : ∀ n : Nat, n - 1 = if n > 0 then n - 1 else 0 := by
    intro n
    split
    · rfl
    · omega
  exact ⟨hdt.trans (hstop _), hst.trans (hstop _), fun k _ => ⟨by rw [hheld], by rw [hrel]⟩,
    tickEvent_frame held released s⟩

/-- A row of Ticks of a running machine lowers each timer by their number, to 0 at the least. -/
theorem foldl_tickEvent_timers : ∀ (keys : List (Word × Word)) {s : State}, s.running →
    let t := keys.foldl (fun u k => tickEvent k.1 k.2 u) s
    t.running ∧ t.dt.toNat = s.dt.toNat - keys.length ∧ t.st.toNat = s.st.toNat - keys.length
  | [], _, hrun => ⟨hrun, rfl, rfl⟩
  | k :: keys, s, hrun => by
    obtain ⟨hrun', hdt, hst, -, -⟩ := tickEvent_spec k.1 k.2 hrun
    obtain ⟨hrunT, hdtT, hstT⟩ := foldl_tickEvent_timers keys hrun'
    refine ⟨hrunT, hdtT.trans ?_, hstT.trans ?_⟩
    · rw [hdt, List.length_cons, Nat.sub_sub, Nat.add_comm]
    · rw [hst, List.length_cons, Nat.sub_sub, Nat.add_comm]

/-- Settles O15: the Ticks before the last, by induction, then the last, which supplies the vectors. -/
theorem timersStopAtZero : Obligations.TimersStopAtZero := by
  intro keys last s hnone
  obtain ⟨hrun, hdt, hst⟩ := foldl_tickEvent_timers keys (State.running_iff.mpr hnone)
  obtain ⟨-, hdtL, hstL, hheld, hrel⟩ := tickEvent_spec last.1 last.2 hrun
  rw [List.foldl_concat]
  exact ⟨by rw [hdtL, hdt, Nat.sub_sub], by rw [hstL, hst, Nat.sub_sub], hheld, hrel⟩

/-! ### Strobes (60_exceptions.md R266, R267) -/

/-- CLS emits `redraw`; the trace is in the write set of no other instruction. -/
theorem exec_trace {i : Instr} {s t : State} (h : exec i s = .next t) :
    t.trace = if i = .cls then .redraw :: s.trace else s.trace := by
  cases i with
  | cls => exact Host.Outcome.next.inj h ▸ rfl
  | _ => exact execChangesOnlyItsWriteSet _ s t h .trace (by simp [writeSet, Item.isCell, Item.inRun])

/-- The strobe of an executed word, whose address is the one PC was advanced from. -/
theorem executeWord_trace {w : Word} {s t : State} (h : executeWord w s = .next t) :
    t.trace = if decodeWord w = some .cls then .redraw :: s.trace
      else if decodeWord w = none then .illegal (s.pc - 2) w :: s.trace else s.trace := by
  cases hw : decodeWord w with
  | none =>
    rw [executeWord_of_unknown hw] at h
    exact Host.Outcome.next.inj h ▸ rfl
  | some i =>
    rw [executeWord_of_decodeWord hw] at h
    simpa using exec_trace h

/-- A step that executes no word emits nothing: a Tick, a frozen machine's step, a faulting fetch. -/
theorem step_trace_of_no_word {s t : State} (h : step s = .next t)
    (hno : ¬ s.running ∨ s.cyclesLeft = 0 ∨ s.fetchWord = none) : t.trace = s.trace := by
  rcases step_cases s with ⟨-, ho⟩ | ⟨n, hn, ho⟩
  · exact onlyChanges_of_next (tickEvent_frame _ _ s.startPeriod) (ho ▸ h) .trace (by simp)
  · by_cases hrun : s.running
    · have hw : s.fetchWord = none := by
        rcases hno with hfrozen | h0 | hw
        · exact absurd hrun hfrozen
        · omega
        · exact hw
      rw [ho, cycleEvent_of_fetchWord_none (s := s.setCyclesLeft n) hrun hw] at h
      exact Host.Outcome.next.inj h ▸ rfl
    · rw [ho, cycleEvent_of_frozen (s := s.setCyclesLeft n) (Bool.not_eq_false _ ▸ hrun)] at h
      exact Host.Outcome.next.inj h ▸ rfl

/-- Settles O27: the word at PC is executed with PC advanced, so the strobe's address is the old PC. -/
theorem strobesComeFromClsAndUnknownWords : Obligations.StrobesComeFromClsAndUnknownWords := by
  refine fun s t h => ⟨fun w hrun hne hw => ?_, step_trace_of_no_word h⟩
  obtain ⟨n, hn⟩ := Nat.exists_eq_succ_of_ne_zero hne
  rw [step_of_fetchWord hrun hn hw] at h
  have htrace := executeWord_trace h
  rwa [State.advance_pc, State.setCyclesLeft_pc, BitVec.add_sub_cancel] at htrace

end Sys2Proof.Machine

/-! PROOFS of the family 70_reset_and_hazards.md: which images the loader accepts, Reset as the load of an empty image,
and what a Cycle can change of the timers and the key vectors. -/

namespace Sys2Proof.Machine

/-! ### The loader (70_reset_and_hazards.md R290, R293) -/

theorem resetEvent_of_too_long (font : Font) {program : List Byte} (h : 3584 < program.length) :
    resetEvent font program = .refused .programTooLong :=
  if_neg fun hfits => absurd (of_decide_eq_true hfits) (not_le.mpr h)

/-- Settles O19: one equation of Reset on each side of 3584 bytes, and Reset leaves FAULT clear. -/
theorem loaderRefusesLongImages : Obligations.LoaderRefusesLongImages := fun font _ =>
  ⟨resetEvent_of_too_long font, fun h => ⟨_, resetEvent_of_fits font h, rfl⟩⟩

/-- The bytes of the default FONT are those an unlisted address reads as, so none of them is listed. -/
theorem resetMemory_defaultFont_nil : resetMemory defaultFont [] = [] := by decide

/-- Settles O20: the empty image fits, and memory lists no byte after it. -/
theorem resetIsEmptyLoad : Obligations.ResetIsEmptyLoad := by
  unfold Obligations.ResetIsEmptyLoad
  rw [resetEvent_of_fits defaultFont (program := []) (Nat.zero_le 3584), resetMemory_defaultFont_nil]
  rfl

/-! ### Timers and keys within a tick period (70_reset_and_hazards.md R297, R298) -/

/-- The frame of a Cycle: PC, FAULT, the trace, and the write set of the instruction it executes. -/
theorem cycleEvent_frame {s t : State} (h : cycleEvent s = .next t) :
    OnlyChanges (fun it => it ∈ [.pc, .fault, .trace] ∨
      ∃ w i, s.fetchWord = some w ∧ decodeWord w = some i ∧ writeSet s.advance i it) s t := by
  rcases cycleEvent_cases s with ⟨-, ho⟩ | ⟨-, -, ho⟩ | ⟨w, -, -, -, ho⟩ | ⟨w, i, -, hw, hi, ho⟩
  · exact onlyChanges_of_next (.refl _ _) (ho ▸ h)
  · exact onlyChanges_of_next ((s.takeFault_frame _ _ _).pair (by simp) (by simp)) (ho ▸ h)
  · exact onlyChanges_of_next
      (((s.setPC_frame _).single (by simp)).trans ((State.emit_frame _ _).single (by simp))) (ho ▸ h)
  · exact ((s.setPC_frame _).single (by simp)).trans
      ((execChangesOnlyItsWriteSet i s.advance t (ho ▸ h)).mono fun _ hwrite => .inr ⟨w, i, hw, hi, hwrite⟩)

/-- An item that a Cycle changes, other than PC, FAULT and the trace, its instruction may write. -/
theorem writeSet_of_cycleEvent_changes {s t : State} {it : Item} (h : cycleEvent s = .next t)
    (hit : it ∉ [.pc, .fault, .trace]) (hne : ¬ it.same s t) :
    ∃ w i, s.fetchWord = some w ∧ decodeWord w = some i ∧ writeSet s.advance i it :=
  (not_not.mp fun hn => hne (cycleEvent_frame h it hn)).resolve_left hit

theorem writeSet_dt {s : State} {i : Instr} (h : writeSet s i .dt) : ∃ x, i = .ldDTVx x := by
  cases i with
  | ldDTVx x => exact ⟨x, rfl⟩
  | _ => simp [writeSet, Item.isCell, Item.inRun] at h

theorem writeSet_st {s : State} {i : Instr} (h : writeSet s i .st) : ∃ x, i = .ldSTVx x := by
  cases i with
  | ldSTVx x => exact ⟨x, rfl⟩
  | _ => simp [writeSet, Item.isCell, Item.inRun] at h

/-- Settles O26: with a cycle left the step is a Cycle, whose instruction alone can write a timer. -/
theorem timersAndKeysChangeOnlyAtTicks : Obligations.TimersAndKeysChangeOnlyAtTicks := by
  intro s t hleft hstep
  obtain ⟨n, hn⟩ := Nat.exists_eq_succ_of_ne_zero hleft
  have hcycle : cycleEvent (s.setCyclesLeft n) = .next t := step_of_cyclesLeft_succ hn ▸ hstep
  have hkeep := cycleEvent_keeps_schedule hcycle
  refine ⟨hkeep .held (by simp), hkeep .rel (by simp), fun hdt => ?_, fun hst => ?_⟩
  · obtain ⟨w, i, hw, hi, hwrite⟩ := writeSet_of_cycleEvent_changes (it := .dt) hcycle (by simp) hdt
    obtain ⟨x, rfl⟩ := writeSet_dt hwrite
    exact ⟨w, x, hw, hi⟩
  · obtain ⟨w, i, hw, hi, hwrite⟩ := writeSet_of_cycleEvent_changes (it := .st) hcycle (by simp) hst
    obtain ⟨x, rfl⟩ := writeSet_st hwrite
    exact ⟨w, x, hw, hi⟩

end Sys2Proof.Machine
